-- ==== Sys2Proof/Word.lean ====
section
/-!
DEFINITION. The word types of the MSE core (spec 00_scope.md rule R8, 30_encoding.md rules R81 and R90).
-/

namespace Sys2Proof

/-- A command word of MSE-CMD 1, 32 bits (R81). -/
abbrev Word := BitVec 32

/-- A `uint8`: a control byte, the INIT operand (R8, R92). -/
abbrev Byte := BitVec 8

/-- A 16-bit pattern: a `uint16` knob parameter or an `int16` step value or sample (R8). Which of the two it is
is said by the definition that reads it: `toNat` reads it as `uint16`, `toInt` as `int16`. -/
abbrev Half16 := BitVec 16

/-- A vector of the four knob parameters (R14 "Parameter vector"). -/
abbrev Knobs := Vector Half16 4

end Sys2Proof
end

