-- ==== Sys2Proof/Syntax.lean ====
section
/-!
DEFINITION. The commands of MSE-CMD 1: one constructor of `Instr` for each of the eleven rows of
spec/opcode_table.json, with its operands already decoded (30_encoding.md rules R83 to R90).
-/

namespace Sys2Proof

/-- The control mode (R26, R94): 0 = FULL, 1 = HALF. -/
inductive Mode where
  | full
  | half
  deriving DecidableEq, Repr

/-- The three AccentSequencer variants (R152): `PAL_W` write, `PAL_A` accumulate, `PAL_C` compose / decompose. -/
inductive PalVariant where
  | w
  | a
  | c
  deriving DecidableEq, Repr

/-- The four ChromaticStepSequencer variants (R192): `BM_A`, `BM_B`, `BM_C`, `BM_D`. -/
inductive BmVariant where
  | a
  | b
  | c
  | d
  deriving DecidableEq, Repr

/-- The function a 4-bit function code names (R95): 0 `RIZM`, 1 to 3 the `PAL` variants, 4 to 7 the `BM` variants,
8 to 15 the external collaborator slots. `ext k` is the slot of code `8 + k`. -/
inductive Fn where
  | rizm
  | pal (v : PalVariant)
  | bm (v : BmVariant)
  | ext (slot : Fin 8)
  deriving DecidableEq, Repr

/-- The commands of the opcode map (R83). -/
inductive Instr where
  /-- `INIT index` (R84, R232). -/
  | init (index : Byte)
  /-- `SETFN function` (R85, R238). -/
  | setfn (function : Fn)
  /-- `SETMODE mode` (R86, R240). -/
  | setmode (mode : Mode)
  /-- `SETPAR idx, value` (R87, R242). -/
  | setpar (idx : Fin 4) (value : Half16)
  /-- `CPYPAR values`, zero to four values (R88, R244). -/
  | cpypar (values : List Half16)
  /-- `PROC control` (R89, R246). -/
  | proc (control : Byte)
  /-- `BUF` (R252). -/
  | buf
  /-- `CFG` (R235). -/
  | cfg
  /-- `QNT raw` (R118). -/
  | qnt (raw : Half16)
  /-- `LEDF` (R215). -/
  | ledf
  /-- `LEDN` (R216). -/
  | ledn
  deriving DecidableEq, Repr

end Sys2Proof
end

