-- ==== Sys2Proof/Config.lean ====
section
/-!
DEFINITION. The implementation parameters of 00_scope.md rule R6, as one record of plain data, and the four operations
of an external collaborator (44_processor_engine.md rule R262), which the spec leaves open and which are therefore
constants without a body.
-/

namespace Sys2Proof

/-- One entry of the HALF default table (R97, R98): a fixed value, or the mirror of `P[0]` or `P[1]`
(`j` is 0 or 1 by R278). -/
inductive HalfDefault where
  | fix (c : Half16)
  | mir (j : Fin 2)
  deriving DecidableEq, Repr

/-- `HALF_DEFAULT[f][2]` and `HALF_DEFAULT[f][3]` of one function (R98). -/
structure HalfRow where
  e2 : HalfDefault
  e3 : HalfDefault
  deriving DecidableEq, Repr

/-- The HALF default table, one row for each in-scope function (R98). -/
structure HalfTable where
  rizm : HalfRow
  palW : HalfRow
  palA : HalfRow
  palC : HalfRow
  bmA : HalfRow
  bmB : HalfRow
  bmC : HalfRow
  bmD : HalfRow
  deriving DecidableEq, Repr

/-- The style of a collaborator slot (R96, R262). -/
inductive ExtStyle where
  | unbuffered
  | buffered
  deriving DecidableEq, Repr

/-- The parameters of R6, but for the two that are functions. A machine carries one such record and no command writes it
(log entry 3), so a statement about every state is a statement about every value of the parameters.
The other two: which of the collaborators `EXT[8..15]` are present is in `State.exts`, their operations are the constants
below; `POLICY` is `Machine.policy`, "fixed to the identity" (R264). -/
structure Params where
  /-- `Q_FSV`, 0 to 32767 (R113). -/
  qFsv : BitVec 15
  /-- `QCOEFF[0..12]` (R112). -/
  qCoeff : Vector Nat 13
  /-- `Q_BUCKET` (R114). -/
  qBucket : Nat
  /-- `RIZM_SUB_A[0..4]` (R135). -/
  rizmSubA : Vector (BitVec 4) 5
  /-- `RIZM_SUB_B[0..4]` (R135). -/
  rizmSubB : Vector (BitVec 4) 5
  /-- `PAL_CAP`, the number of elements of `PAL_VAL` (R151). -/
  palCap : Nat
  /-- `PAL_SCALE`, in units of 2^-16 (R176). -/
  palScale : Int
  /-- `BM_CAP`, the number of elements of `BM_VAL` (R191); not the `cap(v)` of a variant, which is `Machine.bmCap`. -/
  bmArrayCap : Nat
  /-- `HALF_DEFAULT` (R98). -/
  half : HalfTable
  /-- `BM_SENTINEL`, an `int16` (R207). -/
  bmSentinel : Half16
  /-- `K_BLOCK` (R68). -/
  kBlock : Nat
  /-- `RB_CAP` (R66). -/
  rbCap : Nat
  deriving DecidableEq, Repr

/-- The constraints R6 puts on the parameters: `QCOEFF` strictly increasing from 0, `QCOEFF[12] * Q_FSV < 2^32`,
`Q_BUCKET` and `K_BLOCK` positive, `PAL_CAP` at least 16, `RB_CAP >= K_BLOCK`. That `BM_CAP` is at least 12, the largest
`cap(v)`, is DEDUCED from R61 and R192 (log entry 10). -/
abbrev Params.Wf (p : Params) : Prop :=
  p.qCoeff[0] = 0 ∧ (∀ i : Fin 12, p.qCoeff[i.val] < p.qCoeff[i.val + 1]) ∧
    p.qCoeff[12] * p.qFsv.toNat < 2 ^ 32 ∧ 0 < p.qBucket ∧ 0 < p.kBlock ∧ p.kBlock ≤ p.rbCap ∧
    16 ≤ p.palCap ∧ 12 ≤ p.bmArrayCap

/-- The default HALF table (R98, D6). -/
def HalfTable.reference : HalfTable where
  rizm := ⟨.fix 0x8000, .fix 0xC000⟩
  palW := ⟨.fix 0x8000, .fix 0x8000⟩
  palA := ⟨.fix 0x8000, .fix 0x2000⟩
  palC := ⟨.mir 1, .fix 0x8000⟩
  bmA := ⟨.mir 0, .mir 1⟩
  bmB := ⟨.mir 0, .mir 1⟩
  bmC := ⟨.mir 0, .mir 1⟩
  bmD := ⟨.mir 0, .fix 0xFFFF⟩

/-- The parameter values of R6 that the spec decides, and the reference value 20480 of the open parameter `Q_FSV`
(D10; DESIGN CHOICE, log entry 3). -/
def Params.reference : Params where
  qFsv := 20480
  qCoeff := #v[0, 5946, 12246, 18921, 25992, 33484, 41421, 49831, 58740, 68179, 78180, 88775, 100000]
  qBucket := 2520
  rizmSubA := #v[0b0000, 0b1000, 0b1010, 0b1011, 0b1111]
  rizmSubB := #v[0b0000, 0b0010, 0b0101, 0b0110, 0b1101]
  palCap := 16
  palScale := 40960
  bmArrayCap := 16
  half := HalfTable.reference
  bmSentinel := 0x8200
  kBlock := 4
  rbCap := 8

/-! The operations of the collaborator in slot `8 + k` (R262). "Nothing else about a collaborator may be assumed": they
are constants without a body, so nothing can be proved of their values. A collaborator's opaque state type `S` is coded
as a natural number (log entry 5). -/

/-- `EXT[8+k].init : uint8 (CHAN) -> S`. -/
opaque Config.extInit : Fin 8 → Byte → Nat

/-- The uninterpreted function behind `EXT[8+k].configure`; `Machine.extConfigure` makes it idempotent. -/
opaque Config.extConfigureRaw : Fin 8 → Nat → Knobs → Mode → Nat

/-- The state part of `EXT[8+k].process : S x uint8 -> S x int16`. -/
opaque Config.extProcessState : Fin 8 → Nat → Byte → Nat

/-- The sample part of `EXT[8+k].process`. -/
opaque Config.extProcessSample : Fin 8 → Nat → Byte → Half16

/-- The state part of `EXT[8+k].fill : S x uint8[K_BLOCK] -> S x int16[K_BLOCK]`. -/
opaque Config.extFillState : Fin 8 → Nat → List Byte → Nat

/-- Sample number `j` of `EXT[8+k].fill`, for `j` below `K_BLOCK`. -/
opaque Config.extFillSample : Fin 8 → Nat → List Byte → Nat → Half16

end Sys2Proof
end

