-- ==== Sys2Proof/Machine/State.lean ====
section
/-!
DEFINITION. The state of the MSE core (10_state.md rules R20 to R33), its faults (none) and refusals, and the state
after reset.
-/

namespace Sys2Proof.Machine

/-- The PatternGenerator registers (R29). -/
structure Rizm where
  /-- `RZ_SELA`, combination index 0 to 24 of pattern A. -/
  selA : BitVec 5
  /-- `RZ_SELB`, combination index 0 to 24 of pattern B. -/
  selB : BitVec 5
  /-- `RZ_BAL`, balance. -/
  bal : BitVec 15
  /-- `RZ_LVL`, level of pattern B, an `int16`. -/
  lvl : Half16
  /-- `RZ_STEP`, step counter. -/
  step : BitVec 3
  deriving DecidableEq, Repr

/-- The AccentSequencer registers, one instance for the three variants (R30, R21). -/
structure Pal where
  /-- `PAL_VAL`, `int16` step values, `PAL_CAP` of them (R151). -/
  val : List Half16
  /-- `PAL_COUNT`, active step count, 1 to 16. -/
  count : BitVec 5
  /-- `PAL_IDX`, current step index. -/
  idx : BitVec 4
  /-- `PAL_LASTW`: bit 4 valid, bits 3:0 the step last written in the current gate-2 window; `NONE` is 0. -/
  lastW : BitVec 5
  /-- `PAL_HELD`: gate 2 was seen high while on the current step (variant C). -/
  held : Bool
  /-- `PAL_S1`, write-strength (variant W) or strength (variant A), an `int16`. -/
  s1 : Half16
  /-- `PAL_OFFSET`, an `int16`. -/
  offset : Half16
  /-- `PAL_METRO`, metronome strength. -/
  metro : BitVec 15
  /-- `PAL_COMPOSE`, compose delta. -/
  compose : BitVec 15
  /-- `PAL_DECOMPOSE`, decompose delta. -/
  decompose : BitVec 15
  deriving DecidableEq, Repr

/-- The ChromaticStepSequencer registers, one instance for the four variants (R31, R21). -/
structure Bm where
  /-- `BM_VAL`, `int16` raw step values, `BM_CAP` of them (R191). -/
  val : List Half16
  /-- `BM_COUNT`, step count, 1 to 8. -/
  count : BitVec 5
  /-- `BM_IDX`, current step index. -/
  idx : BitVec 4
  /-- `BM_FRAME`, current frame index. -/
  frame : BitVec 2
  /-- `BM_SNAP[0..3]`, the effective parameters last observed. -/
  snap : Knobs
  /-- `BM_FLIP`, octave-flip flag, `false` = base polarity. -/
  flip : Bool
  /-- `BM_LASTQ`, last quantized output sample, an `int16`. -/
  lastQ : Half16
  deriving DecidableEq, Repr

/-- A collaborator slot that is present: its style, which no command writes, and its opaque state `EXTS[c]` (R20,
R262), coded as a natural number (log entry 5). -/
structure ExtInst where
  style : ExtStyle
  st : Nat
  deriving DecidableEq, Repr

/-- The value on the response port for one command: `rsp[15:0]` and `rsp_err` (R80, R90, R285). -/
structure Response where
  value : Half16
  err : Bool
  deriving DecidableEq, Repr

/-- What the host presents: a word on the command port, or the reset input `rst` sampled high (R80, R300). -/
inductive PortEvent where
  | word (w : Word)
  | rst
  deriving DecidableEq, Repr

/-- The state of the block (R20), with three fields of the model's own at the end: the parameters of R6, and the two
ports. -/
structure State where
  /-- `P[0..3]`, the parameter registers (R23). -/
  p : Knobs
  /-- `FUNC`, the active function (R24), as the function its code names (R95). -/
  func : Fn
  /-- `CHAN`, the operand of the most recent INIT (R25). -/
  chan : Byte
  /-- `MODE`, the control mode (R26). -/
  mode : Mode
  /-- `INQ`, queued control bytes, oldest first (R28). -/
  inq : List Byte
  /-- `OUTQ`, queued output samples, oldest first (R28). -/
  outq : List Half16
  /-- The PatternGenerator instance (R29). -/
  rizm : Rizm
  /-- The AccentSequencer instance (R30). -/
  pal : Pal
  /-- The ChromaticStepSequencer instance (R31). -/
  bm : Bm
  /-- The collaborator slots `EXT[8..15]` (R20, R262): `none` where the slot is absent. Which slots are present and of
  which style is a parameter that no command writes. -/
  exts : Vector (Option ExtInst) 8
  /-- The parameters of R6: the model's own field, written by no command (log entry 3). -/
  params : Params
  /-- The host's input still to come, oldest first: the model's own field (log entry 1). -/
  port : List PortEvent
  /-- The response of the command just completed, `none` while `rsp_valid` is 0: the model's own field for the response
  port (log entry 2). -/
  rsp : Option Response
  deriving DecidableEq, Repr

/-- The block raises no exception and has no fault (R280, 93_implementation_defined.md: "no `fault` and no `stuck`
treatment anywhere"), so this type has no constructor. Safe: a claim that a step does not fault is true of the block. -/
inductive Fault where
  deriving DecidableEq, Repr

/-- The ways a step has no meaning. -/
inductive Refusal where
  /-- An instruction whose meaning is not written: raised by `exec` alone, by the table's mnemonic. Safe: nothing is
  claimed of such a step. No arm of this model raises it. -/
  | notModelled (mnemonic : String)
  /-- `FUNC` names a collaborator slot that is absent, "a corrupted function-table entry … a programming defect"
  (R286, I6: "`refuse` any state with a corrupted entry"): raised by CFG, SETPAR, CPYPAR, SETMODE, PROC and BUF, in
  states that no run from reset reaches. Safe: nothing is claimed of such a step. -/
  | corruptFunction
  deriving DecidableEq, Repr

/-- The RIZM registers after reset: the values Configure gives them for mid-scale knobs (R29, R33). -/
def Rizm.reset : Rizm where
  selA := 12
  selB := 12
  bal := 16384
  lvl := 0
  step := 0

/-- The PAL registers after reset (R30, R33). -/
def Pal.reset (p : Params) : Pal where
  val := List.replicate p.palCap 0
  count := 1
  idx := 0
  lastW := 0
  held := false
  s1 := 0
  offset := 0
  metro := 0
  compose := 0
  decompose := 0

/-- The BM registers after reset (R31, R33). -/
def Bm.reset (p : Params) : Bm where
  val := List.replicate p.bmArrayCap 0
  count := 8
  idx := 0
  frame := 0
  snap := Vector.replicate 4 0x8000
  flip := false
  lastQ := 0

/-- The machine right after reset (R33, R300) with the parameters `params` of R6: all collaborator slots absent (D38),
nothing presented by the host yet, no response. -/
def State.resetWith (params : Params) : State where
  p := Vector.replicate 4 0x8000
  func := .rizm
  chan := 0
  mode := .full
  inq := []
  outq := []
  rizm := Rizm.reset
  pal := Pal.reset params
  bm := Bm.reset params
  exts := Vector.replicate 8 none
  params := params
  port := []
  rsp := none

/-- The machine right after reset with the parameter values of R6. -/
def State.reset : State := State.resetWith Params.reference

end Sys2Proof.Machine
end

