-- ==== Sys2Proof/Machine/Flags.lean ====
section
/-!
DEFINITION. The one-bit values of the block: the gate flags of the control byte (00_scope.md rule R13, 30_encoding.md
rule R92) and the 5-bit patterns of `PAL_LASTW`. The block has no condition codes (10_state.md rule R32).
-/

namespace Sys2Proof.Machine

/-- Gate-1 level (R92 bit 0). No in-scope algorithm reads it. -/
def gate1 (c : Byte) : Bool := c.getLsbD 0

/-- Gate-1 rising edge (R92 bit 1). -/
def gate1Rise (c : Byte) : Bool := c.getLsbD 1

/-- Gate-2 level (R92 bit 2). -/
def gate2 (c : Byte) : Bool := c.getLsbD 2

/-- Gate-2 rising edge (R92 bit 3). -/
def gate2Rise (c : Byte) : Bool := c.getLsbD 3

/-- `NONE`, the value of `PAL_LASTW` outside a gate-2 window (R158). -/
def lastNone : BitVec 5 := 0b00000

/-- `VALID(i)`, the value of `PAL_LASTW` after step `i` was accumulated (R158). -/
def lastValid (i : BitVec 4) : BitVec 5 := 0b10000#5 ||| i.setWidth 5

end Sys2Proof.Machine
end

