-- ==== Sys2Proof/Machine/Operands.lean ====
section
/-!
DEFINITION. The arithmetic every command uses: saturation and conversion (00_scope.md rules R9 and R10), the effective
parameter vector (30_encoding.md rule R97), and the constants of the PAL and BM variants.
Arithmetic is over `Int` and `Nat` and is brought back to a width at the end (45_laws.md rule R270).
-/

namespace Sys2Proof.Machine

/-- `clip16(x)` (R9). -/
def clip16 (x : Int) : Int :=
  if x < -32768 then -32768 else if 32767 < x then 32767 else x

/-- `clip0(x)` (R9). -/
def clip0 (x : Int) : Int :=
  if x < 0 then 0 else if 32767 < x then 32767 else x

/-- The `int16` whose value is `x`, for `x` in -32768 to 32767. -/
def int16 (x : Int) : Half16 := BitVec.ofInt 16 x

/-- `satneg(x)` (R9). -/
def satneg (x : Half16) : Half16 :=
  if x.toInt = -32768 then 32767 else int16 (-x.toInt)

/-- `bipolar(p) = p - 32768` (R10). -/
def bipolar (p : Half16) : Half16 := int16 ((p.toNat : Int) - 32768)

/-- The 15-bit value `E >> 1` (R133, R156). -/
def halved (e : Half16) : BitVec 15 := BitVec.ofNat 15 (e.toNat / 2)

/-- `(x * PAL_SCALE) >>a 16`, the output scaling of the PAL family; the arithmetic shift is the floor of the division by
`2^16` (R10, R176). With the `PAL_SCALE` of R6 the quotient lies in -20480 to 20479 and the saturation never acts; for a
ratio above 1 it is DEDUCED from R9 (log entry 10). -/
def scaleOut (scale x : Int) : Half16 := int16 (clip16 (x * scale / 65536))

/-- What an entry of the HALF default table stands for (R97). -/
def HalfDefault.value (h : HalfDefault) (p : Knobs) : Half16 :=
  match h with
  | .fix c => c
  | .mir j => p[j.val]

/-- The HALF defaults of a PAL variant (R98). -/
def HalfTable.pal (t : HalfTable) : PalVariant → HalfRow
  | .w => t.palW
  | .a => t.palA
  | .c => t.palC

/-- The HALF defaults of a BM variant (R98). -/
def HalfTable.bm (t : HalfTable) : BmVariant → HalfRow
  | .a => t.bmA
  | .b => t.bmB
  | .c => t.bmC
  | .d => t.bmD

/-- The effective parameter vector `E[0..3]` for a function whose HALF defaults are `row` (R97). -/
def effective (m : Mode) (row : HalfRow) (p : Knobs) : Knobs :=
  match m with
  | .full => p
  | .half => #v[p[0], p[1], HalfDefault.value row.e2 p, HalfDefault.value row.e3 p]

/-! The constants of the BM variants (R192). -/

/-- What gate 2 does in a BM variant (R192). -/
inductive GateRole where
  | frame
  | flip
  deriving DecidableEq, Repr

/-- `cap(v)`. -/
def bmCap : BmVariant → Nat
  | .b => 12
  | _ => 8

/-- `nframes(v)`. -/
def bmFrames : BmVariant → Nat
  | .b => 3
  | _ => 2

/-- `role(v)`. -/
def bmRole : BmVariant → GateRole
  | .a => .frame
  | .b => .frame
  | .c => .flip
  | .d => .flip

/-- The value-knob slots of a variant, ascending. -/
def bmSlots : BmVariant → List (Fin 4)
  | .d => [0, 1, 2]
  | _ => [0, 1, 2, 3]

/-- The step count a Configure gives a variant (R198). -/
def bmCount (v : BmVariant) (e : Knobs) : BitVec 5 :=
  match v with
  | .a => 8
  | .b => 4
  | .c => 8
  | .d => BitVec.ofNat 5 (1 + e[3].toNat * 8 / 65536)

end Sys2Proof.Machine
end

