-- ==== Sys2Proof/Machine/Ops.lean ====
section
/-!
DEFINITION. The named operations over the block's storage: the array accesses (20_memory.md rules R60 and R61), the
ring buffers (R62 to R65), the collaborator slots (44_processor_engine.md rule R262), the response port (30_encoding.md
rule R90) and the refusal of a command word (60_exceptions.md rule R285).
The block takes no exception and returns from none (R280, R290), so no operation here enters a handler.
-/

namespace Sys2Proof.Machine

/-! Step arrays. The accesses are total (R61: "a model may therefore use total array functions"). -/

/-- `MemRead(A, i)` on a step array; outside the array, where no rule reads, it is 0. -/
def readStep (x : List Half16) (i : Nat) : Half16 := x.getD i 0

/-- `MemWrite(A, i, v)` on a step array; outside the array, where no rule writes, it does nothing. -/
def writeStep (x : List Half16) (i : Nat) (v : Half16) : List Half16 := x.set i v

/-! Ring buffers. A queue is a list, oldest element first (R62). -/

/-- `writable(Q) = RB_CAP - len(Q)` (R62). -/
def writable {α : Type} (cap : Nat) (q : List α) : Nat := cap - q.length

/-- `Overwrite(Q, v)`: a full queue loses its oldest element (R63). -/
def overwrite {α : Type} (cap : Nat) (q : List α) (v : α) : List α :=
  if cap ≤ q.length then q.tail ++ [v] else q ++ [v]

/-- `ImmediateRead(Q)`: the oldest element, or `zero` from an empty queue, and the queue left (R64). -/
def immediateRead {α : Type} (zero : α) : List α → α × List α
  | [] => (zero, [])
  | v :: q => (v, q)

/-- `n` times `ImmediateRead(INQ)`: the bytes read, in order, and the queue left (R252). -/
def readBlock : Nat → List Byte → List Byte × List Byte
  | 0, q => ([], q)
  | n + 1, q =>
    let r := readBlock n (immediateRead 0 q).2
    ((immediateRead 0 q).1 :: r.1, r.2)

/-- `Overwrite` of each sample of a block, in order (R252). -/
def writeBlock (cap : Nat) (q : List Half16) (out : List Half16) : List Half16 :=
  out.foldl (overwrite cap) q

/-- `Flush(INQ); Flush(OUTQ)` (R65). -/
def State.flush (s : State) : State := { s with inq := [], outq := [] }

/-! The response port. -/

/-- `respond(v)` (R12, R90). -/
def State.respond (s : State) (v : Half16) : State := { s with rsp := some ⟨v, false⟩ }

/-- A refused command: no state of the block changes, the response is `0x0000` with `rsp_err = 1` (R285, R12). -/
def State.refuseWord (s : State) : State := { s with rsp := some ⟨0, true⟩ }

/-! Registers. -/

/-- `P[idx] <- value` (R242). -/
def State.setParam (s : State) (idx : Fin 4) (value : Half16) : State := { s with p := s.p.set idx.val value }

/-- `P[k] <- values[k]` for the values given, from register 0 up (R244). -/
def copyParams (values : List Half16) (p : Knobs) : Knobs :=
  #v[values.getD 0 p[0], values.getD 1 p[1], values.getD 2 p[2], values.getD 3 p[3]]

/-! Collaborator slots. -/

/-- `EXTS[8+k] <- f(EXTS[8+k])`; nothing where the slot is absent. -/
def updateExt (x : Vector (Option ExtInst) 8) (k : Fin 8) (f : Nat → Nat) : Vector (Option ExtInst) 8 :=
  x.set k.val (x[k.val].map fun e => { e with st := f e.st })

/-- `for c in 8..15 with EXT[c] present: EXTS[c] <- EXT[c].init(CHAN)` (R232). -/
def initExts (chan : Byte) (x : Vector (Option ExtInst) 8) : Vector (Option ExtInst) 8 :=
  ([0, 1, 2, 3, 4, 5, 6, 7] : List (Fin 8)).foldl (fun x k => updateExt x k fun _ => Config.extInit k chan) x

/-- `EXT[8+k].configure(S, P, MODE)`, which "is idempotent in the sense of rule R237" (R262): the uninterpreted
function's result where that result is a fixed point of it, else the state unchanged. Every idempotent function is of
this form, with itself as the uninterpreted one (log entry 5). -/
def extConfigure (k : Fin 8) (p : Knobs) (m : Mode) (st : Nat) : Nat :=
  let t := Config.extConfigureRaw k st p m
  if Config.extConfigureRaw k t p m = t then t else st

/-- The `K_BLOCK` samples of `EXT[8+k].fill` (R262). -/
def extFill (kBlock : Nat) (k : Fin 8) (st : Nat) (bytes : List Byte) : List Half16 :=
  (List.range kBlock).map (Config.extFillSample k st bytes)

/-- The override policy, fixed to the identity (R264, D39). -/
def policy (f : Fn) (_ : Knobs) : Fn := f

/-- The operations of a function exist: it is in scope, or its slot is present (R286). -/
def State.selectable (s : State) : Fn → Bool
  | .ext k => s.exts[k.val].isSome
  | _ => true

/-- A command that dispatches on `FUNC` and completes in `t`; a state whose `FUNC` names an absent slot is refused
(R286, I6). -/
def State.dispatched (s t : State) : Host.Outcome State Fault Refusal :=
  if s.selectable s.func then .next t else .refused .corruptFunction

end Sys2Proof.Machine
end

