-- ==== Sys2Proof/Machine/Quantizer.lean ====
section
/-!
DEFINITION. The Quantizer and the command QNT (40_quantizer.md).
-/

namespace Sys2Proof.Machine

/-- The bucket index of a raw value: its magnitude, held in a width that holds 32768, divided by `Q_BUCKET` and clamped
to 12 (R114, R115). -/
def bucket (p : Params) (raw : Half16) : Nat := min 12 (raw.toInt.natAbs / p.qBucket)

/-- The level of a bucket, `(QCOEFF[i] * Q_FSV) div QCOEFF[12]`, multiplied before it is divided (R115, R272). -/
def level (p : Params) (i : Nat) : Nat :=
  (if h : i < 13 then p.qCoeff[i] else 0) * p.qFsv.toNat / p.qCoeff[12]

/-- `Quantize(raw)` (R115). -/
def quantize (p : Params) (raw : Half16) : Half16 :=
  if raw.toInt < 0 then int16 (-(level p (bucket p raw) : Int)) else int16 (level p (bucket p raw))

/-- QNT (R118): accepted whatever `FUNC` is, changes no state. -/
def execQnt (raw : Half16) (s : State) : Host.Outcome State Fault Refusal :=
  .next (s.respond (quantize s.params raw))

end Sys2Proof.Machine
end

