-- ==== Sys2Proof/Machine/Bm.lean ====
section
/-!
DEFINITION. ChromaticStepSequencer (BeigeMaze), function codes 4 to 7, and the LED queries LEDF and LEDN
(43_chromatic_sequencer.md).
-/

namespace Sys2Proof.Machine

/-- BM init (R196): every BM register, and every element of `BM_VAL`. -/
def bmInit (p : Params) (_ : Bm) : Bm where
  val := List.replicate p.bmArrayCap 0
  idx := 0
  frame := 0
  snap := Vector.replicate 4 0x8000
  flip := false
  lastQ := 0
  count := 8

/-- One knob slot of Configure: a knob that differs from its snapshot overwrites its step of the current frame, if that
step is in range, and is recorded (R198, R200). -/
def bmLatch (v : BmVariant) (e : Knobs) (b : Bm) (k : Fin 4) : Bm :=
  if e[k.val] ≠ b.snap[k.val] then
    { b with
      val :=
        if b.frame.toNat * 4 + k.val < bmCap v then writeStep b.val (b.frame.toNat * 4 + k.val) (bipolar e[k.val])
        else b.val
      snap := b.snap.set k.val e[k.val] }
  else b

/-- BM configure (R198). -/
def bmConfigure (v : BmVariant) (e : Knobs) (b : Bm) : Bm :=
  { (bmSlots v).foldl (bmLatch v e) b with count := bmCount v e }

/-- `base(v)` (R192). -/
def bmBase (v : BmVariant) (b : Bm) : Nat :=
  match v with
  | .b => b.frame.toNat * 4
  | _ => 0

/-- (1) Re-validate (R202). -/
def bmRevalidate (b : Bm) : Bm := if b.count.toNat ≤ b.idx.toNat then { b with idx := 0 } else b

/-- `Advance()`: to the next step, wrapping at the count, and to 0 where the landing step is a sentinel (R201, R207). -/
def bmAdvance (p : Params) (v : BmVariant) (b : Bm) : Bm :=
  let i : BitVec 4 := if b.count.toNat ≤ b.idx.toNat + 1 then 0 else b.idx + 1
  if (readStep b.val (bmBase v b + i.toNat)).toInt ≤ p.bmSentinel.toInt then { b with idx := 0 }
  else { b with idx := i }

/-- (2) Gate 2: the frame selector, or the octave flip with its advance on the return to base polarity (R204, R205). -/
def bmGate2 (p : Params) (v : BmVariant) (c : Byte) (b : Bm) : Bm :=
  if gate2Rise c then
    match bmRole v with
    | .frame => { b with frame := if bmFrames v ≤ b.frame.toNat + 1 then 0 else b.frame + 1 }
    | .flip =>
      let b := { b with flip := !b.flip }
      if b.flip then b else bmAdvance p v b
  else b

/-- (3) Gate 1 (R203). -/
def bmGate1 (p : Params) (v : BmVariant) (c : Byte) (b : Bm) : Bm := if gate1Rise c then bmAdvance p v b else b

/-- (4) In the FLIP variants the frame follows the step (R206). -/
def bmFollow (v : BmVariant) (b : Bm) : Bm :=
  match bmRole v with
  | .frame => b
  | .flip => { b with frame := BitVec.ofNat 2 (b.idx.toNat / 4) }

/-- The raw value that plays, after the octave multiplier (R209). -/
def bmRaw (v : BmVariant) (b : Bm) : Half16 :=
  let raw := readStep b.val (bmBase v b + b.idx.toNat)
  if b.flip then satneg raw else raw

/-- BM process_single_sample (R201). -/
def bmProcess (p : Params) (v : BmVariant) (c : Byte) (b : Bm) : Bm × Half16 :=
  let b := bmFollow v (bmGate1 p v c (bmGate2 p v c (bmRevalidate b)))
  let q := quantize p (bmRaw v b)
  ({ b with lastQ := q }, q)

/-- LEDF (R215). -/
def execLedf (s : State) : Host.Outcome State Fault Refusal :=
  match s.func with
  | .bm v => .next (s.respond ((BitVec.ofNat 8 ((s.bm.frame.toNat + 1) * 255 / bmFrames v)).setWidth 16))
  | _ => .next (s.respond 0)

/-- LEDN (R216). -/
def execLedn (s : State) : Host.Outcome State Fault Refusal :=
  match s.func with
  | .bm _ => .next (s.respond ((BitVec.ofNat 8 ((s.bm.lastQ.toInt + 32768) / 256).toNat).setWidth 16))
  | _ => .next (s.respond 0)

end Sys2Proof.Machine
end

