-- ==== Sys2Proof/Machine/Pal.lean ====
section
/-!
DEFINITION. AccentSequencer (Palimpsest), function codes 1 to 3 (42_accent_sequencer.md).
-/

namespace Sys2Proof.Machine

/-- PAL init (R155): every PAL register, whatever it held, and every element of `PAL_VAL`. -/
def palInit (p : Params) (_ : Pal) : Pal where
  val := List.replicate p.palCap 0
  idx := 0
  lastW := lastNone
  held := false
  count := 1
  s1 := 0
  offset := 0
  metro := 0
  compose := 0
  decompose := 0

/-- PAL configure (R156): the count and the five scalars, whatever the variant. -/
def palConfigure (e : Knobs) (q : Pal) : Pal :=
  { q with
    count := BitVec.ofNat 5 (1 + e[0].toNat / 4096)
    s1 := bipolar e[1]
    offset := bipolar e[2]
    metro := halved e[3]
    compose := halved e[1]
    decompose := halved e[2] }

/-- The value of the step an index names, as an `int16`. -/
def palAt (q : Pal) (i : BitVec 4) : Int := (readStep q.val i.toNat).toInt

/-- `PAL_VAL[i] <- v`. -/
def palSet (q : Pal) (i : BitVec 4) (v : Half16) : Pal := { q with val := writeStep q.val i.toNat v }

/-- (1) Re-validate: an index at or above the count snaps to 0 (R160). -/
def palRevalidate (q : Pal) : Pal := if q.count.toNat ≤ q.idx.toNat then { q with idx := 0 } else q

/-- The index after `i`, wrapping at the count (R161). -/
def palNext (q : Pal) (i : BitVec 4) : BitVec 4 := if q.count.toNat ≤ i.toNat + 1 then 0 else i + 1

/-- (2) Advance on a gate-1 edge; in variant C the step left decays if it was not reinforced, and the new step's
`PAL_HELD` starts clear (R161, R166, R169). -/
def palAdvance (v : PalVariant) (c : Byte) (q : Pal) : Pal :=
  if gate1Rise c then
    match v with
    | .c =>
      let q := if q.held then q else palSet q q.idx (int16 (clip0 (palAt q q.idx - q.decompose.toNat)))
      { q with idx := palNext q q.idx, held := false }
    | _ => { q with idx := palNext q q.idx }
  else q

/-- Accumulate `delta` into the current step, once per step per gate-2 window, floored at 0 (R163 to R165, R167,
R168). -/
def palAccumulate (delta : Int) (q : Pal) : Pal :=
  if q.lastW ≠ lastValid q.idx then
    { palSet q q.idx (int16 (clip0 (palAt q q.idx + delta))) with lastW := lastValid q.idx }
  else q

/-- (3) Gate 2 on the step the tick is now at (R162, R163, R164, R167, R169). -/
def palGate2 (v : PalVariant) (c : Byte) (q : Pal) : Pal :=
  match v with
  | .w => if gate2Rise c then palSet q q.idx q.s1 else q
  | .a => if gate2 c then palAccumulate q.s1.toInt q else { q with lastW := lastNone }
  | .c =>
    if gate2 c then palAccumulate q.compose.toNat { q with held := true } else { q with lastW := lastNone }

/-- `Pulse(i)`: the full pulse at step 0, the half pulse at the midpoint of an even count (R175). -/
def palPulse (q : Pal) (i : BitVec 4) : Int :=
  if i = 0 then q.metro.toNat
  else if q.count.toNat % 2 = 0 ∧ i.toNat = q.count.toNat / 2 then (q.metro.toNat / 2 : Nat)
  else 0

/-- (4) The output of the current step: live preview in variant W (R174), offset and reference pulse in variant A
(R175, R177), scaled by `PAL_SCALE` (R176). -/
def palOutput (p : Params) (v : PalVariant) (q : Pal) : Half16 :=
  let x := palAt q q.idx
  match v with
  | .w => scaleOut p.palScale (if x < q.s1.toInt then q.s1.toInt else x)
  | .a => scaleOut p.palScale (clip16 (x + q.offset.toInt + palPulse q q.idx))
  | .c => scaleOut p.palScale x

/-- PAL process_single_sample (R157, R158). -/
def palProcess (p : Params) (v : PalVariant) (c : Byte) (q : Pal) : Pal × Half16 :=
  let q := palGate2 v c (palAdvance v c (palRevalidate q))
  (q, palOutput p v q)

end Sys2Proof.Machine
end

