-- ==== Sys2Proof/Machine/Rizm.lean ====
section
/-!
DEFINITION. PatternGenerator, function code 0 (41_pattern_generator.md).
-/

namespace Sys2Proof.Machine

/-- RIZM init (R132). -/
def rizmInit (r : Rizm) : Rizm := { r with step := 0 }

/-- `min(24, (E * 25) >> 16)` (R133). -/
def rizmSelect (e : Half16) : BitVec 5 := BitVec.ofNat 5 (min 24 (e.toNat * 25 / 65536))

/-- RIZM configure (R133): the four derived registers, never the step. -/
def rizmConfigure (e : Knobs) (r : Rizm) : Rizm :=
  { r with selA := rizmSelect e[0], selB := rizmSelect e[1], bal := halved e[2], lvl := bipolar e[3] }

/-- `Half(T, d)`: the sub-pattern of a digit, silence for a digit above 4 (R135). -/
def rizmHalf (t : Vector (BitVec 4) 5) (d : Nat) : BitVec 4 := if h : d < 5 then t[d] else 0

/-- `Mask(T, c)`: the high base-5 digit gives the first half (R134, R136). -/
def rizmMask (t : Vector (BitVec 4) 5) (c : Nat) : BitVec 8 := rizmHalf t (c / 5) ++ rizmHalf t (c % 5)

/-- `Active(M, s) = M[7 - s]` (R136). -/
def rizmActive (m : BitVec 8) (s : Nat) : Bool := m.getLsbD (7 - s)

/-- The step a tick moves to: gate-1 increment, then gate-2 reset (R137). -/
def rizmStep (c : Byte) (s : BitVec 3) : BitVec 3 :=
  let s := if gate1Rise c then s + 1 else s
  if gate2Rise c then 0 else s

/-- The output at the step held in `RZ_STEP` (R138, R139). -/
def rizmOutput (p : Params) (r : Rizm) : Half16 :=
  let s := r.step.toNat
  let a : Int :=
    if rizmActive (rizmMask p.rizmSubA r.selA.toNat) s then
      (if s < 4 then 32767 - (r.bal.toNat : Int) else r.bal.toNat)
    else 0
  let b : Int := if rizmActive (rizmMask p.rizmSubB r.selB.toNat) s then r.lvl.toInt else 0
  int16 (clip16 (a + b))

/-- RIZM process_single_sample (R138). -/
def rizmProcess (p : Params) (c : Byte) (r : Rizm) : Rizm × Half16 :=
  let r := { r with step := rizmStep c r.step }
  (r, rizmOutput p r)

end Sys2Proof.Machine
end

