-- ==== Sys2Proof/Machine/Engine.lean ====
section
/-!
DEFINITION. ProcessorEngine: INIT, SETFN, SETMODE, SETPAR, CPYPAR, CFG, PROC, BUF (44_processor_engine.md), and the
dispatch table of 30_encoding.md rule R96 that they share.
-/

namespace Sys2Proof.Machine

/-- `init(f)` of the dispatch table (R96, R231); a collaborator gets `CHAN` (R238). -/
def initFn (f : Fn) (s : State) : State :=
  match f with
  | .rizm => { s with rizm := rizmInit s.rizm }
  | .pal _ => { s with pal := palInit s.params s.pal }
  | .bm _ => { s with bm := bmInit s.params s.bm }
  | .ext k => { s with exts := updateExt s.exts k fun _ => Config.extInit k s.chan }

/-- `configure(f)` of the dispatch table, on the effective vector for an in-scope function and on `P` and `MODE` for a
collaborator (R96, R97, R236). -/
def configureFn (f : Fn) (s : State) : State :=
  match f with
  | .rizm => { s with rizm := rizmConfigure (effective s.mode s.params.half.rizm s.p) s.rizm }
  | .pal v => { s with pal := palConfigure (effective s.mode (HalfTable.pal s.params.half v) s.p) s.pal }
  | .bm v => { s with bm := bmConfigure v (effective s.mode (HalfTable.bm s.params.half v) s.p) s.bm }
  | .ext k => { s with exts := updateExt s.exts k (extConfigure k s.p s.mode) }

/-- The micro-operation `Configure()`: the active function only (R236, R264, 90_conflicts.md C1). -/
def State.configure (s : State) : State := configureFn (policy s.func s.p) s

/-- The state effect of `INIT index`, which the reset input shares (R232, R300). -/
def State.initAll (index : Byte) (s : State) : State :=
  let s := { s with chan := index, p := Vector.replicate 4 0x8000, mode := .full }
  let s := initFn (.bm .a) (initFn (.pal .w) (initFn .rizm s))
  let s := { s with exts := initExts s.chan s.exts }
  let s := { s.flush with func := .rizm }
  s.configure

/-- The reset input sampled high: the state of `INIT 0`, and no response (R300). -/
def State.hardReset (s : State) : State := { s.initAll 0 with rsp := none }

/-- INIT (R232). -/
def execInit (index : Byte) (s : State) : Host.Outcome State Fault Refusal :=
  .next ((s.initAll index).respond 0)

/-- SETFN (R238); a word that names an absent collaborator slot is refused (R91 step 4, R285). -/
def execSetfn (f : Fn) (s : State) : Host.Outcome State Fault Refusal :=
  if s.selectable f then .next ((initFn f { s with func := f }).flush.configure.respond 0)
  else .next s.refuseWord

/-- SETMODE (R240). -/
def execSetmode (m : Mode) (s : State) : Host.Outcome State Fault Refusal :=
  s.dispatched (({ s with mode := m }).configure.respond 0)

/-- SETPAR (R242). -/
def execSetpar (idx : Fin 4) (value : Half16) (s : State) : Host.Outcome State Fault Refusal :=
  s.dispatched ((s.setParam idx value).configure.respond 0)

/-- CPYPAR (R244): all registers first, then one Configure. -/
def execCpypar (values : List Half16) (s : State) : Host.Outcome State Fault Refusal :=
  s.dispatched (({ s with p := copyParams values s.p }).configure.respond 0)

/-- CFG (R235). -/
def execCfg (s : State) : Host.Outcome State Fault Refusal := s.dispatched (s.configure.respond 0)

/-- The buffered path of PROC: the control byte into `INQ`, the oldest sample from `OUTQ` (R246, R248). -/
def procBuffered (c : Byte) (s : State) : State :=
  let r := immediateRead 0 s.outq
  { s with inq := overwrite s.params.rbCap s.inq c, outq := r.2 }.respond r.1

/-- PROC (R246, R247, R248). -/
def execProc (c : Byte) (s : State) : Host.Outcome State Fault Refusal :=
  match s.func with
  | .rizm =>
    let r := rizmProcess s.params c s.rizm
    .next ({ s with rizm := r.1 }.respond r.2)
  | .pal v =>
    let r := palProcess s.params v c s.pal
    .next ({ s with pal := r.1 }.respond r.2)
  | .bm v =>
    let r := bmProcess s.params v c s.bm
    .next ({ s with bm := r.1 }.respond r.2)
  | .ext k =>
    match s.exts[k.val] with
    | none => .refused .corruptFunction
    | some e =>
      match e.style with
      | .unbuffered =>
        .next ({ s with exts := updateExt s.exts k fun st => Config.extProcessState k st c }.respond
          (Config.extProcessSample k e.st c))
      | .buffered => .next (procBuffered c s)

/-- One block: `K_BLOCK` control bytes from `INQ`, `fill`, `K_BLOCK` samples into `OUTQ` (R252). -/
def fillBlock (k : Fin 8) (e : ExtInst) (s : State) : State :=
  let r := readBlock s.params.kBlock s.inq
  { s with
    inq := r.2
    outq := writeBlock s.params.rbCap s.outq (extFill s.params.kBlock k e.st r.1)
    exts := updateExt s.exts k fun st => Config.extFillState k st r.1 }

/-- BUF (R252): a block is produced iff the active function is buffered and `OUTQ` has room for one. -/
def execBuf (s : State) : Host.Outcome State Fault Refusal :=
  match s.func with
  | .ext k =>
    match s.exts[k.val] with
    | none => .refused .corruptFunction
    | some e =>
      match e.style with
      | .unbuffered => .next (s.respond 0)
      | .buffered =>
        if s.params.kBlock ≤ writable s.params.rbCap s.outq then .next ((fillBlock k e s).respond 1)
        else .next (s.respond 0)
  | _ => .next (s.respond 0)

end Sys2Proof.Machine
end

