-- ==== Sys2Proof/Machine/Dispatch.lean ====
section
/-! DEFINITION. One arm per command of MSE-CMD 1. -/

namespace Sys2Proof.Machine

def exec (i : Instr) (s : State) : Host.Outcome State Fault Refusal :=
  match i with
  | .init index => Sys2Proof.Machine.execInit index s
  | .setfn f => Sys2Proof.Machine.execSetfn f s
  | .setmode m => Sys2Proof.Machine.execSetmode m s
  | .setpar idx value => Sys2Proof.Machine.execSetpar idx value s
  | .cpypar values => Sys2Proof.Machine.execCpypar values s
  | .proc c => Sys2Proof.Machine.execProc c s
  | .buf => Sys2Proof.Machine.execBuf s
  | .cfg => Sys2Proof.Machine.execCfg s
  | .qnt raw => Sys2Proof.Machine.execQnt raw s
  | .ledf => Sys2Proof.Machine.execLedf s
  | .ledn => Sys2Proof.Machine.execLedn s

end Sys2Proof.Machine
end

