-- ==== Sys2Proof/WellFormed.lean ====
section
/-!
DEFINITION. Which terms of `Instr` are commands: the one operand whose range its type does not already give is the
number of values of CPYPAR, 0 to 4 (30_encoding.md rules R83 and R88).
-/

namespace Sys2Proof

/-- `true` iff the term is a command of MSE-CMD 1 (R88: `size` is 0 to 4). -/
def Instr.wf : Instr → Bool
  | .init _ => true
  | .setfn _ => true
  | .setmode _ => true
  | .setpar _ _ => true
  | .cpypar values => values.length ≤ 4
  | .proc _ => true
  | .buf => true
  | .cfg => true
  | .qnt _ => true
  | .ledf => true
  | .ledn => true

end Sys2Proof
end

