-- ==== Sys2Proof/Decode.lean ====
section
/-!
DEFINITION. Decoding command words (30_encoding.md rules R81 to R91), total, refusing by name; and the encoder, written
from the same table.
-/

namespace Sys2Proof

/-- The rows of the opcode map, by mnemonic (R83). -/
inductive Opc where
  | init | setfn | setmode | setpar | cpypar | proc | buf | cfg | qnt | ledf | ledn
  deriving DecidableEq, Repr

/-- Why a word is no command (R91). -/
inductive Reject where
  /-- Bits 27:24 are not zero (R91 step 1). -/
  | reservedZ
  /-- Opcode 0x0 or 0xC to 0xF (R91 step 2). -/
  | reservedOpcode
  /-- A bit the command does not use is not zero (R91 step 2). -/
  | unusedBits
  /-- A CPYPAR header whose size is 5 to 7 (R91 step 3). -/
  | sizeAboveFour
  /-- A CPYPAR data word whose upper half is not zero (R91 step 3). -/
  | dataUpperHalf
  /-- Fewer words than the command takes: no refusal of the block, which waits for the rest (`Machine.fetch`). -/
  | truncated
  deriving DecidableEq, Repr

/-- One row of the opcode map: the word `w` selects it iff `(w AND mask) = pattern` (R83). -/
structure Row where
  opc : Opc
  mask : Word
  pattern : Word
  deriving DecidableEq, Repr

/-- The opcode map (R83, columns mask and match). -/
def rows : List Row :=
  [⟨.init, 0xFF00FFFF, 0x10000000⟩, ⟨.setfn, 0xFFF0FFFF, 0x20000000⟩, ⟨.setmode, 0xFFFEFFFF, 0x30000000⟩,
   ⟨.setpar, 0xFFFC0000, 0x40000000⟩, ⟨.cpypar, 0xFFF8FFFF, 0x50000000⟩, ⟨.proc, 0xFF00FFFF, 0x60000000⟩,
   ⟨.buf, 0xFFFFFFFF, 0x70000000⟩, ⟨.cfg, 0xFFFFFFFF, 0x80000000⟩, ⟨.qnt, 0xFFFF0000, 0x90000000⟩,
   ⟨.ledf, 0xFFFFFFFF, 0xA0000000⟩, ⟨.ledn, 0xFFFFFFFF, 0xB0000000⟩]

/-- The row a word selects, if any (R83, R91 step 2). -/
def findRow (w : Word) : Option Opc :=
  (rows.find? fun r => w &&& r.mask == r.pattern).map Row.opc

/-! The four fields of a command word (R81). -/

/-- Bits 31:28, the operation code. -/
def wordOpc (w : Word) : BitVec 4 := w.extractLsb' 28 4

/-- Bits 27:24, zero in every command. -/
def wordZ (w : Word) : BitVec 4 := w.extractLsb' 24 4

/-- Bits 23:16, the operand `a`. -/
def wordA (w : Word) : Byte := w.extractLsb' 16 8

/-- Bits 15:0, the operand `imm16`; also the value of a data word (R82 format D). -/
def wordImm (w : Word) : Half16 := w.extractLsb' 0 16

/-- The size field of a CPYPAR header, `a[2:0]` (R88). -/
def copySize (w : Word) : Nat := (w.extractLsb' 16 3).toNat

/-- The function a code names (R95). -/
def Fn.ofCode (c : BitVec 4) : Fn :=
  match c.toNat with
  | 0 => .rizm
  | 1 => .pal .w
  | 2 => .pal .a
  | 3 => .pal .c
  | 4 => .bm .a
  | 5 => .bm .b
  | 6 => .bm .c
  | 7 => .bm .d
  | n => .ext (Fin.ofNat 8 (n - 8))

/-- The code of a function (R95). -/
def Fn.code : Fn → BitVec 4
  | .rizm => 0
  | .pal .w => 1
  | .pal .a => 2
  | .pal .c => 3
  | .bm .a => 4
  | .bm .b => 5
  | .bm .c => 6
  | .bm .d => 7
  | .ext slot => BitVec.ofNat 4 (8 + slot.val)

/-- The mode bit, 0 FULL, 1 HALF (R94). -/
def Mode.ofBit (b : Bool) : Mode := if b then .half else .full

/-- The bit of a mode (R94). -/
def Mode.bit : Mode → Bool
  | .full => false
  | .half => true

/-- Steps 1 to 3 of R91 on the first word of a command: which row it selects, or why it is refused as one word. -/
def classify (w : Word) : Except Reject Opc :=
  if wordZ w ≠ 0 then .error .reservedZ
  else
    match findRow w with
    | some .cpypar => if 4 < copySize w then .error .sizeAboveFour else .ok .cpypar
    | some o => .ok o
    | none => if wordOpc w = 0 ∨ 0xC ≤ wordOpc w then .error .reservedOpcode else .error .unusedBits

/-- How many data words follow this word: "the length of a command is known from its first word alone" (R91). -/
def dataCount (w : Word) : Nat :=
  match classify w with
  | .ok .cpypar => copySize w
  | _ => 0

/-- The command whose first word is `w` and whose data words are `ds` (R84 to R91; step 4 of R91, the absent
collaborator slot of SETFN, depends on the machine and stands in `Machine.execSetfn`). -/
def decodeCommand (w : Word) (ds : List Word) : Except Reject Instr :=
  match classify w with
  | .error r => .error r
  | .ok .init => .ok (.init (wordA w))
  | .ok .setfn => .ok (.setfn (Fn.ofCode (w.extractLsb' 16 4)))
  | .ok .setmode => .ok (.setmode (Mode.ofBit (w.getLsbD 16)))
  | .ok .setpar => .ok (.setpar (w.extractLsb' 16 2).toFin (wordImm w))
  | .ok .cpypar =>
    if ds.all fun d => d.extractLsb' 16 16 == 0 then .ok (.cpypar (ds.map wordImm)) else .error .dataUpperHalf
  | .ok .proc => .ok (.proc (wordA w))
  | .ok .buf => .ok .buf
  | .ok .cfg => .ok .cfg
  | .ok .qnt => .ok (.qnt (wordImm w))
  | .ok .ledf => .ok .ledf
  | .ok .ledn => .ok .ledn

/-- The command at the head of a list of words (R91). Words after it are not looked at. -/
def decode : List Word → Except Reject Instr
  | [] => .error .truncated
  | w :: ws =>
    if ws.length < dataCount w then .error .truncated else decodeCommand w (ws.take (dataCount w))

/-! Byte storage of command words: little-endian (20_memory.md rule R69, D41). -/

/-- The four bytes of a word, lowest address first (R69). -/
def storeWord (w : Word) : List Byte :=
  [w.extractLsb' 0 8, w.extractLsb' 8 8, w.extractLsb' 16 8, w.extractLsb' 24 8]

/-- The word whose four bytes are given, lowest address first (R69). -/
def joinBytes (b0 b1 b2 b3 : Byte) : Word :=
  b3.setWidth 32 <<< 24 ||| b2.setWidth 32 <<< 16 ||| b1.setWidth 32 <<< 8 ||| b0.setWidth 32

/-- The words stored in a list of bytes (R69); one to three bytes left over are no word. -/
def loadWords : List Byte → List Word
  | b0 :: b1 :: b2 :: b3 :: rest => joinBytes b0 b1 b2 b3 :: loadWords rest
  | _ => []

/-- The command stored at the head of a byte memory (R69, R91). -/
def decodeBytes (bs : List Byte) : Except Reject Instr := decode (loadWords bs)

/-! The encoder. -/

/-- A command word from its fields `opc`, `a`, `imm16`; the field `z` is zero (R81). -/
def mkWord (opc : BitVec 4) (a : Byte) (imm : Half16) : Word :=
  opc.setWidth 32 <<< 28 ||| a.setWidth 32 <<< 16 ||| imm.setWidth 32

/-- The words of a command (R84 to R90). -/
def encode : Instr → List Word
  | .init index => [mkWord 0x1 index 0]
  | .setfn f => [mkWord 0x2 (f.code.setWidth 8) 0]
  | .setmode m => [mkWord 0x3 ((BitVec.ofBool m.bit).setWidth 8) 0]
  | .setpar idx value => [mkWord 0x4 (BitVec.ofNat 8 idx.val) value]
  | .cpypar values => mkWord 0x5 (BitVec.ofNat 8 values.length) 0 :: values.map (BitVec.setWidth 32)
  | .proc control => [mkWord 0x6 control 0]
  | .buf => [mkWord 0x7 0 0]
  | .cfg => [mkWord 0x8 0 0]
  | .qnt raw => [mkWord 0x9 0 raw]
  | .ledf => [mkWord 0xA 0 0]
  | .ledn => [mkWord 0xB 0 0]

/-! The host's question about one word of the opcode table. -/

/-- The words of the command whose bits, numbered as spec/opcode_table.json numbers them, are the low `nbits` bits of
`w`; every bit above them is zero. The first word says how many words the command has. -/
def tableWords (nbits w : Nat) : List Word :=
  let v := w % 2 ^ nbits
  let first := BitVec.ofNat 32 v
  first :: ([1, 2, 3, 4].map fun k => BitVec.ofNat 32 (v / 2 ^ (32 * k))).take (dataCount first)

/-- The command the decoder reads from that word. -/
def decodeTableWord (nbits w : Nat) : Option Instr := (decode (tableWords nbits w)).toOption

end Sys2Proof
end

