-- ==== Sys2Proof/Machine/Fetch.lean ====
section
/-!
DEFINITION. Taking the next command off the command port (30_encoding.md rules R80, R88 and R91; 70_reset_and_hazards.md
rules R300 and R311).
-/

namespace Sys2Proof.Machine

/-- The result of taking data words off the port. -/
inductive Taken where
  /-- The words asked for, and what the host presents after them. -/
  | got (ds : List Word) (rest : List PortEvent)
  /-- The host has not presented them all yet. -/
  | starved
  /-- The reset input came first. -/
  | reset (rest : List PortEvent)
  deriving DecidableEq, Repr

/-- Take `n` words: "the block treats the words after a CPYPAR header as data, whatever their bits" (R311). -/
def takeWords : Nat → List PortEvent → Taken
  | 0, rest => .got [] rest
  | _ + 1, [] => .starved
  | _ + 1, .rst :: rest => .reset rest
  | n + 1, .word w :: rest =>
    match takeWords n rest with
    | .got ds r => .got (w :: ds) r
    | .starved => .starved
    | .reset r => .reset r

/-- What the block meets at a command boundary. -/
inductive Fetched where
  /-- No whole command is on the port: the block is idle and holds its state (R296). -/
  | idle
  /-- The reset input is sampled high; words of a command not yet complete are lost (R300). -/
  | reset (rest : List PortEvent)
  /-- The words taken are no command (R91). -/
  | refused (r : Reject) (rest : List PortEvent)
  /-- A command, and what the host presents after its words. -/
  | command (i : Instr) (rest : List PortEvent)
  deriving DecidableEq, Repr

/-- The next event at a command boundary (R91: a refused command consumes all its words). -/
def fetch : List PortEvent → Fetched
  | [] => .idle
  | .rst :: rest => .reset rest
  | .word w :: rest =>
    match takeWords (dataCount w) rest with
    | .starved => .idle
    | .reset r => .reset r
    | .got ds r =>
      match decodeCommand w ds with
      | .ok i => .command i r
      | .error e => .refused e r

end Sys2Proof.Machine
end

