-- ==== Sys2Proof/Machine/Step.lean ====
section
/-!
DEFINITION. One step: the next command the host has presented, executed as a whole (00_scope.md rule R12, 20_memory.md
rule R73, 10_state.md rule R22).
-/

namespace Sys2Proof.Machine

/-- One step of the machine. With no whole command on the port the block is idle and presents no response (R296); the
reset input acts as `INIT 0` without a response (R300); a word that is no command is refused on the response port and
changes nothing (R285); a command is executed after its words are taken off the port. -/
def step (s : State) : Host.Outcome State Fault Refusal :=
  match fetch s.port with
  | .idle => .next { s with rsp := none }
  | .reset rest => .next { s.hardReset with port := rest }
  | .refused _ rest => .next ({ s with port := rest }).refuseWord
  | .command i rest => exec i { s with port := rest }

/-- `s` with the words of one command of the opcode table, and nothing after them, presented on the command port. -/
def State.withFetchWord (s : State) (nbits w : Nat) : State :=
  { s with port := (tableWords nbits w).map PortEvent.word }

end Sys2Proof.Machine
end

