-- ==== Sys2Proof/Safety.lean ====
section
/-!
DEFINITION. The terms claims about the machine use: the invariant of its states (10_state.md rules R29 to R31, 93
I5, I6), the responses of a run, a run without refused words (60_exceptions.md rule R285), and what two states that no
later response tells apart have in common (10_state.md rule R21).
-/

namespace Sys2Proof.Machine

/-- `RZ_SELA <= 24`, `RZ_SELB <= 24` (R29; `RZ_STEP <= 7` holds by its width). -/
abbrev Rizm.Inv (r : Rizm) : Prop := r.selA.toNat ≤ 24 ∧ r.selB.toNat ≤ 24

/-- `1 <= PAL_COUNT <= 16`; `PAL_LASTW` is `NONE` where its valid bit is clear (R30; `PAL_IDX <= 15` holds by its
width); every index is inside the step array (R61, R151). -/
abbrev Pal.Inv (q : Pal) : Prop :=
  1 ≤ q.count.toNat ∧ q.count.toNat ≤ 16 ∧ (q.lastW.getLsbD 4 = false → q.lastW = 0) ∧
    16 ≤ q.val.length

/-- What holds of the PAL registers while variant `v` is active: `PAL_W` uses neither `PAL_LASTW` nor `PAL_HELD`,
`PAL_A` does not use `PAL_HELD`, and in variants A and C every step value is in 0 to 32767 (R30, R162). -/
abbrev Pal.InvFor (v : PalVariant) (q : Pal) : Prop :=
  (v = .w → q.lastW = 0) ∧ (v ≠ .c → q.held = false) ∧
    (v ≠ .w → ∀ j < q.val.length, 0 ≤ (readStep q.val j).toInt)

/-- `1 <= BM_COUNT <= 8`; the index is below 8 and the frame below 3 whatever the variant; every step of every variant
is inside the step array (R31, R61, R192). -/
abbrev Bm.Inv (b : Bm) : Prop :=
  1 ≤ b.count.toNat ∧ b.count.toNat ≤ 8 ∧ b.idx.toNat ≤ 7 ∧ b.frame.toNat ≤ 2 ∧ 12 ≤ b.val.length

/-- What holds of the BM registers while variant `v` is active: `BM_FRAME < nframes(v)`; no element at or above `cap(v)`
was written; the fixed counts; in `BM_B` the index stays in one frame; the frame variants keep base polarity, and in the
flip variants the frame follows the step (R31, R191, R192, R206). -/
abbrev Bm.InvFor (v : BmVariant) (b : Bm) : Prop :=
  b.frame.toNat < bmFrames v ∧ (∀ j < b.val.length, bmCap v ≤ j → readStep b.val j = 0) ∧
    (v = .a ∨ v = .c → b.count = 8) ∧ (v = .b → b.count = 4 ∧ b.idx.toNat ≤ 3) ∧
    (bmRole v = .frame → b.flip = false) ∧ (bmRole v = .flip → b.frame.toNat = b.idx.toNat / 4)

/-- What holds of the registers of the active function. -/
abbrev State.ActiveInv (s : State) : Prop :=
  (s.func = .pal .w → s.pal.InvFor .w) ∧ (s.func = .pal .a → s.pal.InvFor .a) ∧
    (s.func = .pal .c → s.pal.InvFor .c) ∧ (s.func = .bm .a → s.bm.InvFor .a) ∧
    (s.func = .bm .b → s.bm.InvFor .b) ∧ (s.func = .bm .c → s.bm.InvFor .c) ∧ (s.func = .bm .d → s.bm.InvFor .d)

/-- What holds whatever function is active: the parameter constraints of R6, `FUNC` naming a function whose operations
exist (R286), queues within `RB_CAP` (R28), step arrays of `PAL_CAP` and `BM_CAP` elements (R151, R191), and the ranges of
the three families. -/
abbrev State.BaseInv (s : State) : Prop :=
  s.params.Wf ∧ s.selectable s.func = true ∧ s.inq.length ≤ s.params.rbCap ∧ s.outq.length ≤ s.params.rbCap ∧
    s.pal.val.length = s.params.palCap ∧ s.bm.val.length = s.params.bmArrayCap ∧ s.rizm.Inv ∧ s.pal.Inv ∧ s.bm.Inv

/-- The invariant of the machine's states. -/
abbrev State.Inv (s : State) : Prop := s.BaseInv ∧ s.ActiveInv

/-- The derived registers of the active in-scope function agree with the current knobs and mode: a Configure would change
nothing (10_state.md rule R27, 44_processor_engine.md rules R236 and R237). A collaborator's `process` may leave a state
that its `configure` changes, so nothing is asked while one is active. -/
abbrev State.Configured (s : State) : Prop := (∀ k, s.func ≠ .ext k) → s.configure = s

/-- The responses of the next `n` steps, up to the first step that has no next state. -/
def State.responses : Nat → State → List (Option Response)
  | 0, _ => []
  | n + 1, s =>
    match step s with
    | .next t => t.rsp :: State.responses n t
    | .fault _ => []
    | .refused _ => []

/-- The command just completed was refused: `rsp_err` is 1 (R285). -/
def State.wasRefused (s : State) : Bool :=
  match s.rsp with
  | some r => r.err
  | none => false

/-- A run of `n` steps in which every step has a next state and no command word is refused; "a program that contains
one has no meaning under this spec" (R285), so a claim about a program may assume this of its run. -/
def State.cleanRun : Nat → State → Bool
  | 0, _ => true
  | n + 1, s =>
    match step s with
    | .next t => !t.wasRefused && State.cleanRun n t
    | .fault _ => false
    | .refused _ => false

/-- The two states have the same collaborator slots, of the same styles (R262). -/
abbrev State.SameSlots (s t : State) : Prop :=
  ∀ k : Fin 8, (s.exts[k.val]).map ExtInst.style = (t.exts[k.val]).map ExtInst.style

/-- The two states agree on the registers of the active function. -/
abbrev State.SameActive (s t : State) : Prop :=
  match s.func with
  | .rizm => s.rizm = t.rizm
  | .pal _ => s.pal = t.pal
  | .bm _ => s.bm = t.bm
  | .ext k => s.exts[k.val] = t.exts[k.val]

/-- The two states agree on everything but the registers of functions that are not active: what R21 says no command can
tell apart. -/
abbrev State.Agree (s t : State) : Prop :=
  s.p = t.p ∧ s.func = t.func ∧ s.chan = t.chan ∧ s.mode = t.mode ∧ s.inq = t.inq ∧ s.outq = t.outq ∧
    s.params = t.params ∧ s.port = t.port ∧ s.rsp = t.rsp ∧ s.SameSlots t ∧ s.SameActive t

end Sys2Proof.Machine
end

