-- ==== Sys2Proof/Certificates/Slice0/Obligations.lean ====
section
/-!
DEFINITION. The statements for the provers. Bits of the control byte are written as `c.getLsbD n`, with n = 0 gate-1
level, 1 gate-1 rising edge, 2 gate-2 level, 3 gate-2 rising edge (30_encoding.md rule R92). A quotient of integers
by 65536 is the floor (00_scope.md rule R10).
-/

open Sys2Proof Sys2Proof.Machine

/-! ## Encoding -/

/-- Decoding the words of a well-formed command gives the command back, whatever words follow (R84 to R91). -/
def Obligations.DecodeOfEncodedCommand : Prop :=
  ∀ (i : Instr) (ws : List Word), i.wf = true → decode (encode i ++ ws) = .ok i

/-- Whatever words decode to a command are that command's encoding, followed by words that are not looked at: each
command has one encoding, and every other word is refused (R81, R83, R88, R91). -/
def Obligations.DecodedWordsAreTheEncoding : Prop :=
  ∀ (i : Instr) (ws : List Word), decode ws = .ok i → i.wf = true ∧ ∃ rest, ws = encode i ++ rest

/-- The example words of R84 to R89, R118, R215 and R216 decode to the commands they stand for. -/
def Obligations.SpecExampleWordsDecode : Prop :=
  decode [0x10010000] = .ok (.init 1) ∧ decode [0x20020000] = .ok (.setfn (.pal .a)) ∧
    decode [0x30010000] = .ok (.setmode .half) ∧ decode [0x4002BEEF] = .ok (.setpar 2 0xBEEF) ∧
    decode [0x50020000, 0x00001000, 0x0000FFFF] = .ok (.cpypar [0x1000, 0xFFFF]) ∧
    decode [0x60030000] = .ok (.proc 0x03) ∧ decode [0x70000000] = .ok .buf ∧ decode [0x80000000] = .ok .cfg ∧
    decode [0x90002710] = .ok (.qnt 10000) ∧ decode [0xA0000000] = .ok .ledf ∧ decode [0xB0000000] = .ok .ledn

/-! ## The command port -/

/-- When the words at the head of the port decode to a command, the step is that command's meaning on the state with
those words taken off the port (R12, R73, R91). -/
def Obligations.StepRunsDecodedCommand : Prop :=
  ∀ (s : State) (w : Word) (ds : List Word) (rest : List PortEvent) (i : Instr),
    s.port = .word w :: (ds.map .word ++ rest) → ds.length = dataCount w → decode (w :: ds) = .ok i →
      step s = exec i { s with port := rest }

/-- A refused command (a word that selects no row of the opcode map, a CPYPAR size above 4, a data word with a nonzero
upper half, SETFN of an absent collaborator slot) consumes its words, changes no state and responds 0 with `rsp_err`
(R91, R285). That the step goes on, as the block does, is the model's choice (log entry 4). -/
def Obligations.RefusedWordsChangeNothing : Prop :=
  (∀ (s : State) (w : Word) (rest : List PortEvent), s.port = .word w :: rest →
      ((∀ r ∈ rows, w &&& r.mask ≠ r.pattern) ∨ (w &&& 0xFFF8FFFF = 0x50000000 ∧ 4 < (w.extractLsb' 16 3).toNat)) →
      step s = .next { s with port := rest, rsp := some ⟨0, true⟩ }) ∧
    (∀ (s : State) (w : Word) (ds : List Word) (rest : List PortEvent), s.port = .word w :: (ds.map .word ++ rest) →
      w &&& 0xFFF8FFFF = 0x50000000 → ds.length = (w.extractLsb' 16 3).toNat → ds.length ≤ 4 →
      (∃ d ∈ ds, d.extractLsb' 16 16 ≠ 0) → step s = .next { s with port := rest, rsp := some ⟨0, true⟩ }) ∧
    (∀ (s : State) (k : Fin 8) (rest : List PortEvent),
      s.port = .word (mkWord 0x2 (BitVec.ofNat 8 (8 + k.val)) 0) :: rest → s.exts[k.val] = none →
      step s = .next { s with port := rest, rsp := some ⟨0, true⟩ })

/-- Whenever it is sampled, at a command boundary or among the data words of an incomplete CPYPAR, the reset input puts
the block in the state that `INIT 0` produces, `CHAN = 0` and every other register at its reset value, and gives no
response (R300, R33). -/
def Obligations.ResetInputActsAsInitZero : Prop :=
  ∀ (s : State) (before rest : List PortEvent), s.port = before ++ .rst :: rest →
    (before = [] ∨
      ∃ (n : Nat) (ds : List Word), n ≤ 4 ∧ ds.length < n ∧
        before = .word (mkWord 0x5 (BitVec.ofNat 8 n) 0) :: ds.map .word) →
    ∃ (t : State) (q : List PortEvent), exec (.init 0) s = .next t ∧ step s = .next { t with port := q, rsp := none } ∧
      (before = [] → q = rest) ∧
      t = { State.resetWith s.params with exts := t.exts, port := s.port, rsp := some ⟨0, false⟩ } ∧
      ∀ k : Fin 8, t.exts[k.val] = (s.exts[k.val]).map fun e => { e with st := Config.extInit k 0 }

/-- A reset input among the data words of an incomplete CPYPAR takes the header and the data words before it off the port:
the step is that of the reset input alone. The loss of those words is the model's choice (log entry 1). -/
def Obligations.ResetInputDropsPartialCpypar : Prop :=
  ∀ (s : State) (n : Nat) (ds : List Word) (rest : List PortEvent), n ≤ 4 → ds.length < n →
    s.port = .word (mkWord 0x5 (BitVec.ofNat 8 n) 0) :: (ds.map .word ++ .rst :: rest) →
      ∃ t, step s = .next t ∧ step { s with port := .rst :: rest } = .next t ∧ t.port = rest

/-- With nothing on the port, or a CPYPAR whose data words the host has not all presented, the block is idle and holds
its state (R88, R296); that no response stands on the port then is the model's choice (log entries 1 and 2). -/
def Obligations.IdlePortHoldsState : Prop :=
  ∀ s : State,
    (s.port = [] ∨
      ∃ (n : Nat) (ds : List Word), n ≤ 4 ∧ ds.length < n ∧
        s.port = .word (mkWord 0x5 (BitVec.ofNat 8 n) 0) :: ds.map .word) →
      step s = .next { s with rsp := none }

/-! ## Invariants -/

/-- The reset state meets the invariant. Its parameters are those of R6, with the reference `Q_FSV`, and its port is empty:
the model's choices (log entries 1 and 3). -/
def Obligations.ResetStateMeetsInvariant : Prop := State.reset.Inv

/-- Every step keeps the invariant: the ranges of R29, R30 and R31, the frame and count rules of the BM variants
(R192, R206), the queue capacity (R28), and a `FUNC` whose operations exist (R286). -/
def Obligations.StepKeepsMachineInvariant : Prop :=
  ∀ s t : State, s.Inv → step s = .next t → t.Inv

/-- After reset the derived registers of the active function agree with the knobs and the mode (R33). -/
def Obligations.ResetStateIsConfigured : Prop := State.reset.Configured

/-- Every step keeps the derived registers of the active in-scope function in agreement with the knobs and the mode: between
two commands a Configure would change nothing (R236, R237; 90_conflicts.md C2). -/
def Obligations.StepKeepsDerivedRegistersConfigured : Prop :=
  ∀ s t : State, s.Configured → step s = .next t → t.Configured

/-- From every state whose `FUNC` names a function whose operations exist, which every state that meets the invariant
does, a step has a next state that again has such a `FUNC`: no command can fail once it has been decoded, and no word
stops the block (R280, R285, R286). That a refused word does not stop the model either is log entry 4. -/
def Obligations.SelectableStatesNeverStop : Prop :=
  (∀ s : State, s.Inv → s.selectable s.func = true) ∧
    ∀ s : State, s.selectable s.func = true → ∃ t, step s = .next t ∧ t.selectable t.func = true

/-! ## INIT and SETFN -/

/-- INIT leaves the reset state of R33 with `CHAN = index`, whatever came before, every one of the `PAL_CAP` and `BM_CAP`
steps at 0; a present collaborator is initialised with `CHAN`; the response is 0 (R232, R33). -/
def Obligations.InitLeavesResetState : Prop :=
  ∀ (s : State) (index : Byte), ∃ t, exec (.init index) s = .next t ∧
    t.chan = index ∧ (∀ k : Fin 4, t.p[k.val] = 0x8000) ∧ t.func = .rizm ∧ t.mode = .full ∧ t.inq = [] ∧ t.outq = [] ∧
    t.rizm = { selA := 12, selB := 12, bal := 16384, lvl := 0, step := 0 } ∧
    t.pal.val = List.replicate s.params.palCap 0 ∧ t.pal.count = 1 ∧ t.pal.idx = 0 ∧ t.pal.lastW = 0 ∧
    t.pal.held = false ∧
    t.pal.s1 = 0 ∧ t.pal.offset = 0 ∧ t.pal.metro = 0 ∧ t.pal.compose = 0 ∧ t.pal.decompose = 0 ∧
    t.bm.val = List.replicate s.params.bmArrayCap 0 ∧ t.bm.count = 8 ∧ t.bm.idx = 0 ∧ t.bm.frame = 0 ∧
    (∀ k : Fin 4, t.bm.snap[k.val] = 0x8000) ∧ t.bm.flip = false ∧ t.bm.lastQ = 0 ∧
    (∀ k : Fin 8, t.exts[k.val] = (s.exts[k.val]).map fun e => { e with st := Config.extInit k index }) ∧
    t.params = s.params ∧ t.port = s.port ∧ t.rsp = some ⟨0, false⟩

/-- SETFN of a function whose operations exist selects it, empties both queues, keeps `P`, `MODE` and `CHAN`, writes
no register of a function it does not select, and responds 0 (R238, R266 (b)). -/
def Obligations.SetfnSelectsAndFlushes : Prop :=
  ∀ (s : State) (f : Fn), (∀ k, f = .ext k → (s.exts[k.val]).isSome = true) →
    ∃ t, exec (.setfn f) s = .next t ∧
      t = { s with
            func := f, inq := [], outq := [], rizm := t.rizm, pal := t.pal, bm := t.bm, exts := t.exts,
            rsp := some ⟨0, false⟩ } ∧
      (f ≠ .rizm → t.rizm = s.rizm) ∧ ((∀ v, f ≠ .pal v) → t.pal = s.pal) ∧ ((∀ v, f ≠ .bm v) → t.bm = s.bm) ∧
      (∀ k, f ≠ .ext k → t.exts[k.val] = s.exts[k.val])

/-- SETFN of a PAL variant leaves every step at 0, the index at 0, no open window, and the count and scalars derived
from the current vector and mode (R155, R156, R238). -/
def Obligations.SetfnPalStartsClean : Prop :=
  ∀ (s : State) (v : PalVariant), ∃ t, exec (.setfn (.pal v)) s = .next t ∧
    let e := effective s.mode (HalfTable.pal s.params.half v) s.p
    t.pal.val = List.replicate s.params.palCap 0 ∧ t.pal.idx = 0 ∧ t.pal.lastW = 0 ∧ t.pal.held = false ∧
    t.pal.count.toNat = 1 + e[0].toNat / 4096 ∧ t.pal.s1.toInt = (e[1].toNat : Int) - 32768 ∧
    t.pal.offset.toInt = (e[2].toNat : Int) - 32768 ∧ t.pal.metro.toNat = e[3].toNat / 2 ∧
    t.pal.compose.toNat = e[1].toNat / 2 ∧ t.pal.decompose.toNat = e[2].toNat / 2

/-- SETFN of a BM variant, with `BM_CAP` at least the 12 that R192 needs, loads frame 0 with the current knob positions,
whether or not a knob is at mid-scale, and leaves every other step at 0 (R196, R198, R199, R238). -/
def Obligations.SetfnBmLoadsFrameZero : Prop :=
  ∀ (s : State) (v : BmVariant), 12 ≤ s.params.bmArrayCap → ∃ t, exec (.setfn (.bm v)) s = .next t ∧
    let e := effective s.mode (HalfTable.bm s.params.half v) s.p
    t.bm.val.length = s.params.bmArrayCap ∧
    (∀ k : Fin 4, (readStep t.bm.val k.val).toInt = if k ∈ bmSlots v then (e[k.val].toNat : Int) - 32768 else 0) ∧
    (∀ j : Nat, 4 ≤ j → readStep t.bm.val j = 0) ∧
    (∀ k : Fin 4, t.bm.snap[k.val] = if k ∈ bmSlots v then e[k.val] else 0x8000) ∧
    t.bm.idx = 0 ∧ t.bm.frame = 0 ∧ t.bm.flip = false ∧ t.bm.lastQ = 0 ∧ t.bm.count = bmCount v e

/-- SETFN of a RIZM or of a present collaborator: `RZ_STEP` is 0 and the four derived registers follow the vector; the
collaborator's state is `configure(init(CHAN), P, MODE)` (R132, R133, R238, R262). -/
def Obligations.SetfnRizmAndExtInitialise : Prop :=
  (∀ s : State, ∃ t, exec (.setfn .rizm) s = .next t ∧
    let e := effective s.mode s.params.half.rizm s.p
    t.rizm.step = 0 ∧ t.rizm.selA.toNat = e[0].toNat * 25 / 65536 ∧ t.rizm.selB.toNat = e[1].toNat * 25 / 65536 ∧
    t.rizm.bal.toNat = e[2].toNat / 2 ∧ t.rizm.lvl.toInt = (e[3].toNat : Int) - 32768) ∧
  (∀ (s : State) (k : Fin 8) (x : ExtInst), s.exts[k.val] = some x →
    ∃ t, exec (.setfn (.ext k)) s = .next t ∧
      t.exts[k.val] = some { x with st := extConfigure k s.p s.mode (Config.extInit k s.chan) })

/-- Two states that agree on `P`, `MODE`, `CHAN`, the parameters, the collaborator slots and the port agree, after
SETFN, on everything but the registers of functions that are not active: nothing computed before the SETFN is left
(R266 (c), R238). -/
def Obligations.SetfnErasesHistory : Prop :=
  ∀ (s t : State) (f : Fn), s.p = t.p → s.mode = t.mode → s.chan = t.chan → s.params = t.params → s.port = t.port →
    s.SameSlots t → s.selectable f = true →
      ∃ s' t', exec (.setfn f) s = .next s' ∧ exec (.setfn f) t = .next t' ∧ s'.Agree t'

/-! ## The effective vector and Configure -/

/-- The effective vector: the four knobs in FULL mode; in HALF mode `E[2]` and `E[3]` are the fixed value or the mirrored
knob of the row of the HALF default table (R97). Each PAL and BM variant has the row of its own name, and after reset
the table is that of R98. -/
def Obligations.EffectiveVectorByMode : Prop :=
  (∀ (row : HalfRow) (p : Knobs),
    effective .full row p = p ∧
    (effective .half row p)[0] = p[0] ∧ (effective .half row p)[1] = p[1] ∧
    (∀ c, row.e2 = .fix c → (effective .half row p)[2] = c) ∧
    (∀ j, row.e2 = .mir j → (effective .half row p)[2] = p[j.val]) ∧
    (∀ c, row.e3 = .fix c → (effective .half row p)[3] = c) ∧
    (∀ j, row.e3 = .mir j → (effective .half row p)[3] = p[j.val])) ∧
  (∀ t : HalfTable,
    HalfTable.pal t .w = t.palW ∧ HalfTable.pal t .a = t.palA ∧ HalfTable.pal t .c = t.palC ∧
    HalfTable.bm t .a = t.bmA ∧ HalfTable.bm t .b = t.bmB ∧ HalfTable.bm t .c = t.bmC ∧ HalfTable.bm t .d = t.bmD) ∧
  State.reset.params.half =
    { rizm := ⟨.fix 0x8000, .fix 0xC000⟩
      palW := ⟨.fix 0x8000, .fix 0x8000⟩, palA := ⟨.fix 0x8000, .fix 0x2000⟩, palC := ⟨.mir 1, .fix 0x8000⟩
      bmA := ⟨.mir 0, .mir 1⟩, bmB := ⟨.mir 0, .mir 1⟩, bmC := ⟨.mir 0, .mir 1⟩, bmD := ⟨.mir 0, .fix 0xFFFF⟩ }

/-- With the table of R98, a CFG in HALF mode gives each function the effect the table names: RIZM balance and level
16384; PAL_A offset 0 and metronome 4096; PAL_C a decompose delta equal to the compose delta; in BM_A, BM_B and BM_C
knobs 0 and 1 also drive slots 2 and 3; in BM_D knob 0 also drives slot 2 and the step count is 8 (R97, R98). -/
def Obligations.HalfModeDefaultsByFunction : Prop :=
  ∀ s : State, s.mode = .half → s.params.half = HalfTable.reference →
    (s.func = .rizm → ∃ t, exec .cfg s = .next t ∧ t.rizm.bal = 16384 ∧ t.rizm.lvl.toInt = 16384) ∧
    (s.func = .pal .w → ∃ t, exec .cfg s = .next t ∧ t.pal.offset = 0 ∧ t.pal.metro = 16384 ∧
      t.pal.decompose = 16384) ∧
    (s.func = .pal .a → ∃ t, exec .cfg s = .next t ∧ t.pal.offset = 0 ∧ t.pal.metro = 4096) ∧
    (s.func = .pal .c → ∃ t, exec .cfg s = .next t ∧ t.pal.decompose = t.pal.compose ∧ t.pal.metro = 16384) ∧
    (∀ v, v ≠ .d → s.func = .bm v →
      ∃ t, exec .cfg s = .next t ∧ t.bm.snap[2] = s.p[0] ∧ t.bm.snap[3] = s.p[1]) ∧
    (s.func = .bm .d → ∃ t, exec .cfg s = .next t ∧ t.bm.snap[2] = s.p[0] ∧ t.bm.count = 8)

/-- CFG with RIZM or a PAL variant active re-derives that function's scalars from the effective vector, writes nothing
else and responds 0 (R133, R156, R235, R236). -/
def Obligations.CfgDerivesRizmAndPal : Prop :=
  (∀ s : State, s.func = .rizm → ∃ r : Rizm, exec .cfg s = .next { s with rizm := r, rsp := some ⟨0, false⟩ } ∧
    let e := effective s.mode s.params.half.rizm s.p
    r.step = s.rizm.step ∧ r.selA.toNat = e[0].toNat * 25 / 65536 ∧ r.selB.toNat = e[1].toNat * 25 / 65536 ∧
    r.bal.toNat = e[2].toNat / 2 ∧ r.lvl.toInt = (e[3].toNat : Int) - 32768) ∧
  (∀ (s : State) (v : PalVariant), s.func = .pal v →
    ∃ q : Pal, exec .cfg s = .next { s with pal := q, rsp := some ⟨0, false⟩ } ∧
    let e := effective s.mode (HalfTable.pal s.params.half v) s.p
    q.val = s.pal.val ∧ q.idx = s.pal.idx ∧ q.lastW = s.pal.lastW ∧ q.held = s.pal.held ∧
    q.count.toNat = 1 + e[0].toNat / 4096 ∧ q.s1.toInt = (e[1].toNat : Int) - 32768 ∧
    q.offset.toInt = (e[2].toNat : Int) - 32768 ∧ q.metro.toNat = e[3].toNat / 2 ∧
    q.compose.toNat = e[1].toNat / 2 ∧ q.decompose.toNat = e[2].toNat / 2)

/-- CFG with a BM variant active and its steps inside the step array (R61): each knob slot whose effective parameter differs from its snapshot overwrites its
own step of the current frame if that step is in range, and is recorded; every other step keeps its value, so a knob
moved on frame F mutates steps of frame F only; the count follows the variant (R198, R200, R235). -/
def Obligations.CfgBmLatchesMovedKnobs : Prop :=
  ∀ (s : State) (v : BmVariant), s.func = .bm v → 12 ≤ s.bm.val.length →
    ∃ b : Bm, exec .cfg s = .next { s with bm := b, rsp := some ⟨0, false⟩ } ∧
    let e := effective s.mode (HalfTable.bm s.params.half v) s.p
    b.val.length = s.bm.val.length ∧
    (∀ (f : Nat) (k : Fin 4),
      readStep b.val (f * 4 + k.val) =
        if f = s.bm.frame.toNat ∧ k ∈ bmSlots v ∧ f * 4 + k.val < bmCap v ∧ e[k.val] ≠ s.bm.snap[k.val] then
          bipolar e[k.val]
        else readStep s.bm.val (f * 4 + k.val)) ∧
    (∀ k : Fin 4, b.snap[k.val] = if k ∈ bmSlots v then e[k.val] else s.bm.snap[k.val]) ∧
    b.idx = s.bm.idx ∧ b.frame = s.bm.frame ∧ b.flip = s.bm.flip ∧ b.lastQ = s.bm.lastQ ∧
    b.count.toNat =
      (match v with
       | .a => 8
       | .b => 4
       | .c => 8
       | .d => 1 + e[3].toNat * 8 / 65536)

/-- CFG with a present collaborator active: its `configure` gets `P` and `MODE`, and nothing else changes (R236,
R262). -/
def Obligations.CfgConfiguresCollaborator : Prop :=
  ∀ (s : State) (k : Fin 8) (x : ExtInst), s.func = .ext k → s.exts[k.val] = some x →
    ∃ t, exec .cfg s = .next t ∧ t = { s with exts := t.exts, rsp := some ⟨0, false⟩ } ∧
      ∀ j : Fin 8, t.exts[j.val] =
        if j = k then some { x with st := extConfigure k s.p s.mode x.st } else s.exts[j.val]

/-- SETMODE writes `MODE` and configures: it completes in the state that CFG gives on the new mode (R240). -/
def Obligations.SetmodeWritesModeAndConfigures : Prop :=
  ∀ (s : State) (m : Mode), s.selectable s.func = true →
    ∃ t, exec (.setmode m) s = .next t ∧ exec .cfg { s with mode := m } = .next t ∧
      t = { s with
            mode := m, rizm := t.rizm, pal := t.pal, bm := t.bm, exts := t.exts, rsp := some ⟨0, false⟩ }

/-- SETPAR writes the register it names and no other, and configures: it completes in the state that CFG gives on the
new vector (R242). -/
def Obligations.SetparWritesOneRegister : Prop :=
  ∀ (s : State) (idx : Fin 4) (value : Half16), s.selectable s.func = true →
    ∃ t, exec (.setpar idx value) s = .next t ∧ exec .cfg { s with p := t.p } = .next t ∧
      (∀ k : Fin 4, t.p[k.val] = if k = idx then value else s.p[k.val]) ∧
      t = { s with
            p := t.p, rizm := t.rizm, pal := t.pal, bm := t.bm, exts := t.exts, rsp := some ⟨0, false⟩ }

/-- CPYPAR writes registers 0 to size-1, keeps the others, and configures once: it completes in the state that CFG
gives on the new vector; with no values it is CFG (R244). -/
def Obligations.CpyparWritesPrefixThenConfigures : Prop :=
  ∀ (s : State) (values : List Half16), (Instr.cpypar values).wf = true → s.selectable s.func = true →
    ∃ t, exec (.cpypar values) s = .next t ∧ exec .cfg { s with p := t.p } = .next t ∧
      (∀ k : Fin 4, t.p[k.val] = values.getD k.val s.p[k.val]) ∧ (values = [] → t.p = s.p) ∧
      t = { s with
            p := t.p, rizm := t.rizm, pal := t.pal, bm := t.bm, exts := t.exts, rsp := some ⟨0, false⟩ }

/-- A command that configures without initialising writes no step index, no frame index, no window flag, no step value
of PAL, no octave flip and no queue, whatever is active (R75); and of the function registers it writes those of the
active function alone (R266 (a)). -/
def Obligations.ConfigureKeepsIndices : Prop :=
  ∀ (s t : State) (i : Instr),
    (i = .cfg ∨ (∃ m, i = .setmode m) ∨ (∃ k x, i = .setpar k x) ∨ ∃ xs, i = .cpypar xs) → exec i s = .next t →
      t.rizm.step = s.rizm.step ∧ t.pal.idx = s.pal.idx ∧ t.pal.lastW = s.pal.lastW ∧ t.pal.held = s.pal.held ∧
      t.pal.val = s.pal.val ∧ t.bm.idx = s.bm.idx ∧ t.bm.frame = s.bm.frame ∧ t.bm.flip = s.bm.flip ∧
      t.bm.lastQ = s.bm.lastQ ∧ t.inq = s.inq ∧ t.outq = s.outq ∧ t.func = s.func ∧ t.chan = s.chan ∧
      (s.func ≠ .rizm → t.rizm = s.rizm) ∧ ((∀ v, s.func ≠ .pal v) → t.pal = s.pal) ∧
      ((∀ v, s.func ≠ .bm v) → t.bm = s.bm) ∧ (∀ k, s.func ≠ .ext k → t.exts[k.val] = s.exts[k.val])

/-- A CFG after an INIT, SETFN, SETMODE, SETPAR, CPYPAR or CFG that was not refused changes nothing: Configure is
idempotent for every function, collaborators included (R235, R237, R262). -/
def Obligations.CfgAfterConfigureChangesNothing : Prop :=
  ∀ (s t : State) (i : Instr),
    ((∃ c, i = .init c) ∨ (∃ f, i = .setfn f) ∨ i = .cfg ∨ (∃ m, i = .setmode m) ∨ (∃ k x, i = .setpar k x) ∨
      ∃ xs, i = .cpypar xs) →
    exec i s = .next t → t.rsp = some ⟨0, false⟩ → exec .cfg t = .next t

/-- With RIZM or a PAL variant active, any sequence of one or more SETPAR ends in the vector of the last value written to
each register, and leaves the state that one CPYPAR of that vector leaves (R266 (d)). -/
def Obligations.SetparSequenceEqualsCpypar : Prop :=
  ∀ (s : State) (ws : List (Fin 4 × Half16)) (rest : List PortEvent), ws ≠ [] →
    s.port = ws.map (fun w => .word (mkWord 0x4 (BitVec.ofNat 8 w.1.val) w.2)) ++ rest →
    (s.func = .rizm ∨ ∃ v, s.func = .pal v) →
      ∃ t : State, core.run ws.length s = .next t ∧
        (∀ k : Fin 4, t.p[k.val] = ((ws.filter fun w => w.1 = k).getLast?.map Prod.snd).getD s.p[k.val]) ∧
        exec (.cpypar [t.p[0], t.p[1], t.p[2], t.p[3]]) { s with port := rest } = .next t

/-- With a BM variant active and its knobs latched (`State.Configured`), a sequence of one or more SETPAR that writes no
register twice, with no PROC inside, leaves the state that one CPYPAR of the vector it ends in leaves (R266 (d)). -/
def Obligations.BmSetparSequenceEqualsCpypar : Prop :=
  ∀ (s : State) (v : BmVariant) (ws : List (Fin 4 × Half16)) (rest : List PortEvent), s.func = .bm v → s.Configured →
    ws ≠ [] → (ws.map Prod.fst).Nodup →
    s.port = ws.map (fun w => .word (mkWord 0x4 (BitVec.ofNat 8 w.1.val) w.2)) ++ rest →
      ∃ t : State, core.run ws.length s = .next t ∧
        (∀ k : Fin 4, t.p[k.val] = ((ws.filter fun w => w.1 = k).getLast?.map Prod.snd).getD s.p[k.val]) ∧
        exec (.cpypar [t.p[0], t.p[1], t.p[2], t.p[3]]) { s with port := rest } = .next t

/-- For a BM function the two conditions of R266 (d) are needed. From some state that meets both invariants, two SETPAR
that write one register twice leave other steps than one CPYPAR of the vector they end in; and from some such state a
SETPAR, a PROC and a SETPAR leave other steps than the CPYPAR before or after that PROC. -/
def Obligations.BmSetparConditionsAreNeeded : Prop :=
  (∃ (s : State) (v : BmVariant) (k : Fin 4) (x y : Half16) (s1 s2 t : State), s.Inv ∧ s.Configured ∧ s.func = .bm v ∧
    exec (.setpar k x) s = .next s1 ∧ exec (.setpar k y) s1 = .next s2 ∧
    exec (.cpypar [s2.p[0], s2.p[1], s2.p[2], s2.p[3]]) s = .next t ∧ s2.bm.val ≠ t.bm.val) ∧
  ∃ (s : State) (v : BmVariant) (j k : Fin 4) (x y : Half16) (c : Byte) (s1 s2 s3 t1 t2 u1 u2 : State),
    s.Inv ∧ s.Configured ∧ s.func = .bm v ∧ j ≠ k ∧
    exec (.setpar j x) s = .next s1 ∧ exec (.proc c) s1 = .next s2 ∧ exec (.setpar k y) s2 = .next s3 ∧
    exec (.cpypar [s3.p[0], s3.p[1], s3.p[2], s3.p[3]]) s = .next t1 ∧ exec (.proc c) t1 = .next t2 ∧
    exec (.proc c) s = .next u1 ∧ exec (.cpypar [s3.p[0], s3.p[1], s3.p[2], s3.p[3]]) u1 = .next u2 ∧
    s3.bm.val ≠ t2.bm.val ∧ s3.bm.val ≠ u2.bm.val

/-- In HALF mode a SETPAR of `P[2]` or `P[3]` changes the register and leaves an in-scope function as a CFG would
(R242 (b), R97). -/
def Obligations.HalfModeHidesUpperKnobs : Prop :=
  ∀ (s : State) (idx : Fin 4) (value : Half16), s.mode = .half → 2 ≤ idx.val → (∀ k, s.func ≠ .ext k) →
    ∃ t u, exec (.setpar idx value) s = .next t ∧ exec .cfg s = .next u ∧ t = { u with p := t.p } ∧
      t.p[idx.val] = value

/-- Setting mode and knobs before SETFN or after it ends in states that agree on everything but functions that are not
active, for an in-scope function (R303, R199). -/
def Obligations.BootOrderIsIrrelevant : Prop :=
  ∀ (s : State) (f : Fn) (m : Mode) (a b c d : Half16), s.selectable s.func = true → (∀ k, f ≠ .ext k) →
    ∃ s1 s2 s3 t1 t2 t3, exec (.setmode m) s = .next s1 ∧ exec (.cpypar [a, b, c, d]) s1 = .next s2 ∧
      exec (.setfn f) s2 = .next s3 ∧ exec (.setfn f) s = .next t1 ∧ exec (.setmode m) t1 = .next t2 ∧
      exec (.cpypar [a, b, c, d]) t2 = .next t3 ∧ s3.Agree t3

/-! ## PROC -/

/-- PROC with RIZM active: a gate-1 edge increments the step modulo 8, a gate-2 edge then resets it; the sample is the
saturated sum of the two patterns' contributions at the step the tick moved to; only `RZ_STEP` is written (R134 to
R139, R246). -/
def Obligations.ProcRizmSample : Prop :=
  ∀ (s : State) (c : Byte), s.func = .rizm →
    ∃ (n : Fin 8) (y : Half16),
      exec (.proc c) s =
        .next { s with rizm := { s.rizm with step := BitVec.ofNat 3 n.val }, rsp := some ⟨y, false⟩ } ∧
      n.val = (if c.getLsbD 3 then 0
        else if c.getLsbD 1 then (s.rizm.step.toNat + 1) % 8 else s.rizm.step.toNat) ∧
      (let digit := fun (sel : BitVec 5) => if n.val < 4 then sel.toNat / 5 else sel.toNat % 5
       let active := fun (t : Vector (BitVec 4) 5) (sel : BitVec 5) =>
         (t.toList.getD (digit sel) 0).getLsbD (3 - n.val % 4)
       let a : Int := if active s.params.rizmSubA s.rizm.selA then
           (if n.val < 4 then 32767 - (s.rizm.bal.toNat : Int) else s.rizm.bal.toNat) else 0
       let b : Int := if active s.params.rizmSubB s.rizm.selB then s.rizm.lvl.toInt else 0
       y.toInt = max (-32768) (min 32767 (a + b)))

/-- PROC with PAL_W active, the PAL registers in their ranges (R30): re-validate, advance on a gate-1 edge, overwrite
the step arrived at on a gate-2 edge, and output the larger of the stored value and the write-strength, scaled by
`PAL_SCALE` (40960 in R176; any ratio while the result is an `int16`); only the index and that step are written (R158,
R160, R161, R162, R174, R176). -/
def Obligations.ProcPalWSample : Prop :=
  ∀ (s : State) (c : Byte), s.func = .pal .w → s.pal.Inv →
    ∃ (n : Fin 16) (x : List Half16) (y : Half16),
      exec (.proc c) s =
        .next { s with pal := { s.pal with val := x, idx := BitVec.ofNat 4 n.val }, rsp := some ⟨y, false⟩ } ∧
      (let i0 := if s.pal.count.toNat ≤ s.pal.idx.toNat then 0 else s.pal.idx.toNat
       n.val = if c.getLsbD 1 then (if s.pal.count.toNat ≤ i0 + 1 then 0 else i0 + 1) else i0) ∧
      x.length = s.pal.val.length ∧
      (∀ j : Nat, readStep x j = if c.getLsbD 3 = true ∧ j = n.val then s.pal.s1 else readStep s.pal.val j) ∧
      (let z := max s.pal.s1.toInt (readStep x n.val).toInt * s.params.palScale / 65536
       s.params.palScale = 40960 ∨ (-32768 ≤ z ∧ z ≤ 32767) → y.toInt = z)

/-- PROC with PAL_A active, the PAL registers in their ranges (R30): re-validate, advance on a gate-1 edge, add the
strength to the step arrived at once per step and gate-2 window, floored at 0; the output adds the offset and the
reference pulse, saturates and is scaled by `PAL_SCALE` (40960 in R176; any ratio while the result is an `int16`) (R158, R160, R161,
R163, R164, R165, R175, R176, R177). -/
def Obligations.ProcPalASample : Prop :=
  ∀ (s : State) (c : Byte), s.func = .pal .a → s.pal.Inv →
    ∃ (n : Fin 16) (x : List Half16) (y : Half16),
      exec (.proc c) s =
        .next { s with
          pal := { s.pal with
            val := x, idx := BitVec.ofNat 4 n.val,
            lastW := if c.getLsbD 2 then BitVec.ofNat 5 (16 + n.val) else 0 }
          rsp := some ⟨y, false⟩ } ∧
      (let i0 := if s.pal.count.toNat ≤ s.pal.idx.toNat then 0 else s.pal.idx.toNat
       n.val = if c.getLsbD 1 then (if s.pal.count.toNat ≤ i0 + 1 then 0 else i0 + 1) else i0) ∧
      x.length = s.pal.val.length ∧
      (∀ j : Nat, (readStep x j).toInt =
        if c.getLsbD 2 = true ∧ s.pal.lastW ≠ BitVec.ofNat 5 (16 + n.val) ∧ j = n.val then
          max 0 (min 32767 ((readStep s.pal.val j).toInt + s.pal.s1.toInt))
        else (readStep s.pal.val j).toInt) ∧
      (let pulse : Int := if n.val = 0 then s.pal.metro.toNat
         else if s.pal.count.toNat % 2 = 0 ∧ n.val = s.pal.count.toNat / 2 then (s.pal.metro.toNat / 2 : Nat) else 0
       let z := max (-32768) (min 32767 ((readStep x n.val).toInt + s.pal.offset.toInt + pulse)) *
         s.params.palScale / 65536
       s.params.palScale = 40960 ∨ (-32768 ≤ z ∧ z ≤ 32767) → y.toInt = z)

/-- PROC with PAL_C active, the PAL registers in their ranges (R30): re-validate; on a gate-1 edge the step left loses
the decompose delta, floored at 0, unless it was held, and the index advances; a high gate 2 holds the step arrived at
and adds the compose delta once per step and window; the output is the step's value, scaled by `PAL_SCALE` (40960 in
R176; any ratio while the result is an `int16`) (R158, R160, R161, R163, R166 to R169, R176). -/
def Obligations.ProcPalCSample : Prop :=
  ∀ (s : State) (c : Byte), s.func = .pal .c → s.pal.Inv →
    ∃ (i0 n : Fin 16) (x : List Half16) (y : Half16),
      exec (.proc c) s =
        .next { s with
          pal := { s.pal with
            val := x, idx := BitVec.ofNat 4 n.val,
            lastW := if c.getLsbD 2 then BitVec.ofNat 5 (16 + n.val) else 0,
            held := c.getLsbD 2 || (!c.getLsbD 1 && s.pal.held) }
          rsp := some ⟨y, false⟩ } ∧
      i0.val = (if s.pal.count.toNat ≤ s.pal.idx.toNat then 0 else s.pal.idx.toNat) ∧
      n.val = (if c.getLsbD 1 then (if s.pal.count.toNat ≤ i0.val + 1 then 0 else i0.val + 1) else i0.val) ∧
      x.length = s.pal.val.length ∧
      (∀ j : Nat,
        let u : Int := if c.getLsbD 1 = true ∧ s.pal.held = false ∧ j = i0.val then
            max 0 (min 32767 ((readStep s.pal.val j).toInt - s.pal.decompose.toNat))
          else (readStep s.pal.val j).toInt
        (readStep x j).toInt =
          if c.getLsbD 2 = true ∧ s.pal.lastW ≠ BitVec.ofNat 5 (16 + n.val) ∧ j = n.val then
            max 0 (min 32767 (u + s.pal.compose.toNat))
          else u) ∧
      (let z := (readStep x n.val).toInt * s.params.palScale / 65536
       s.params.palScale = 40960 ∨ (-32768 ≤ z ∧ z ≤ 32767) → y.toInt = z)

/-- PROC with BM_A or BM_B active, the BM registers meeting their invariant (R31): re-validate, a gate-2 edge steps
the frame selector, a gate-1 edge advances with wrap and sentinel (inside the new frame in BM_B), and the playing step
goes through the Quantizer; only the index, the frame and the cached sample are written (R192, R201 to R204, R207,
R210). -/
def Obligations.ProcBmFrameSample : Prop :=
  ∀ (s : State) (c : Byte) (v : BmVariant), s.func = .bm v → v = .a ∨ v = .b → s.bm.Inv → s.bm.InvFor v →
    let frame := if c.getLsbD 3 then (if bmFrames v ≤ s.bm.frame.toNat + 1 then 0 else s.bm.frame.toNat + 1)
      else s.bm.frame.toNat
    let base := if v = .b then frame * 4 else 0
    let i0 := if s.bm.count.toNat ≤ s.bm.idx.toNat then 0 else s.bm.idx.toNat
    let land := if s.bm.count.toNat ≤ i0 + 1 then 0 else i0 + 1
    let i := if c.getLsbD 1 then
        (if (readStep s.bm.val (base + land)).toInt ≤ s.params.bmSentinel.toInt then 0 else land)
      else i0
    let y := quantize s.params (readStep s.bm.val (base + i))
    base + i < bmCap v ∧
    exec (.proc c) s =
      .next { s with
        bm := { s.bm with idx := BitVec.ofNat 4 i, frame := BitVec.ofNat 2 frame, lastQ := y }
        rsp := some ⟨y, false⟩ }

/-- PROC with BM_C or BM_D active, the BM registers in their ranges (R31): re-validate; a gate-2 edge toggles the
octave flip and, on the return to base polarity, advances; a gate-1 edge advances; the frame follows the step; the
playing step, negated with saturation while flipped, goes through the Quantizer (R192, R201 to R203, R205 to R207,
R209, R210). -/
def Obligations.ProcBmFlipSample : Prop :=
  ∀ (s : State) (c : Byte) (v : BmVariant), s.func = .bm v → v = .c ∨ v = .d → s.bm.Inv →
    let adv := fun (i : Nat) =>
      if s.bm.count.toNat ≤ i + 1 then 0
      else if (readStep s.bm.val (i + 1)).toInt ≤ s.params.bmSentinel.toInt then 0 else i + 1
    let i0 := if s.bm.count.toNat ≤ s.bm.idx.toNat then 0 else s.bm.idx.toNat
    let i1 := if c.getLsbD 3 = true ∧ s.bm.flip = true then adv i0 else i0
    let i := if c.getLsbD 1 then adv i1 else i1
    let flip := if c.getLsbD 3 then !s.bm.flip else s.bm.flip
    let raw := readStep s.bm.val i
    let y := quantize s.params (if flip then (if raw = 0x8000 then 0x7FFF else -raw) else raw)
    i < bmCap v ∧
    exec (.proc c) s =
      .next { s with
        bm := { s.bm with idx := BitVec.ofNat 4 i, frame := BitVec.ofNat 2 (i / 4), flip := flip, lastQ := y }
        rsp := some ⟨y, false⟩ }

/-- PROC with an unbuffered collaborator active: its `process` gives the new state and the sample (R246, R247, R262).
-/
def Obligations.ProcUnbufferedCollaborator : Prop :=
  ∀ (s : State) (c : Byte) (k : Fin 8) (st : Nat), s.func = .ext k → s.exts[k.val] = some ⟨.unbuffered, st⟩ →
    ∃ t, exec (.proc c) s = .next t ∧
      t = { s with exts := t.exts, rsp := some ⟨Config.extProcessSample k st c, false⟩ } ∧
      ∀ j : Fin 8, t.exts[j.val] =
        if j = k then some ⟨.unbuffered, Config.extProcessState k st c⟩ else s.exts[j.val]

/-- PROC with a buffered collaborator active and `INQ` within its capacity (R28) appends the control byte, all eight
bits, to `INQ`, which loses its oldest byte if it is full, and answers the oldest computed sample, or 0 where there is
none (R246, R248). -/
def Obligations.ProcBufferedQueues : Prop :=
  ∀ (s : State) (c : Byte) (k : Fin 8) (st : Nat), s.func = .ext k → s.exts[k.val] = some ⟨.buffered, st⟩ →
    s.inq.length ≤ s.params.rbCap →
      exec (.proc c) s =
        .next { s with
          inq := (if s.inq.length = s.params.rbCap then s.inq.drop 1 else s.inq) ++ [c]
          outq := s.outq.drop 1
          rsp := some ⟨s.outq.getD 0 0, false⟩ }

/-- An in-scope function gives the same result for two control bytes that agree in bits 3:0, and no control byte makes
the PROC word illegal (R93). -/
def Obligations.ReservedControlBitsIgnored : Prop :=
  (∀ c : Byte, decode [mkWord 0x6 c 0] = .ok (.proc c)) ∧
  ∀ (s : State) (c d : Byte), (∀ k, s.func ≠ .ext k) → c.extractLsb' 0 4 = d.extractLsb' 0 4 →
    exec (.proc c) s = exec (.proc d) s

/-- With parameters within the constraints of R6, the sample of a PAL variant lies in -20480 to 20479 when `PAL_SCALE` is
the 40960 of R176, and that of a BM variant in `-Q_FSV` to `Q_FSV` (R176, R210). -/
def Obligations.SampleRanges : Prop :=
  ∀ (s : State) (c : Byte), s.params.Wf →
    (∀ v, s.func = .pal v → s.params.palScale = 40960 → ∃ t y, exec (.proc c) s = .next t ∧ t.rsp = some ⟨y, false⟩ ∧
      -20480 ≤ y.toInt ∧ y.toInt ≤ 20479) ∧
    (∀ v, s.func = .bm v → ∃ t y, exec (.proc c) s = .next t ∧ t.rsp = some ⟨y, false⟩ ∧ t.bm.lastQ = y ∧
      -(s.params.qFsv.toNat : Int) ≤ y.toInt ∧ y.toInt ≤ s.params.qFsv.toNat)

/-- In PAL_A and PAL_C, of two successive ticks with gate 2 high the second, if it has no gate-1 edge, changes no step value
and no other PAL register: staying on a step while gate 2 is held accumulates once (R163). -/
def Obligations.SecondTickOfAStayAccumulatesNothing : Prop :=
  ∀ (s : State) (c d : Byte) (v : PalVariant), s.func = .pal v → v ≠ .w → c.getLsbD 2 = true → d.getLsbD 2 = true →
    d.getLsbD 1 = false →
      ∃ s1 s2, exec (.proc c) s = .next s1 ∧ exec (.proc d) s1 = .next s2 ∧ s2.pal = s1.pal

/-- In PAL_A and PAL_C, after a tick with gate 2 high: an advance to another step inside the window accumulates that step
and writes no other; with `PAL_COUNT = 1` an advance inside the window returns to step 0 and changes nothing; releasing
gate 2 for a tick and asserting it again on the same step accumulates it again (R163). -/
def Obligations.AccumulationFollowsStepAndWindow : Prop :=
  ∀ (s : State) (v : PalVariant) (c d e : Byte), s.func = .pal v → v ≠ .w → s.pal.Inv → c.getLsbD 2 = true →
    d.getLsbD 2 = true → e.getLsbD 1 = false → e.getLsbD 2 = false →
      let delta : Int := if v = .a then s.pal.s1.toInt else s.pal.compose.toNat
      ∃ s1, exec (.proc c) s = .next s1 ∧
        (d.getLsbD 1 = true → 2 ≤ s.pal.count.toNat →
          ∃ s2, exec (.proc d) s1 = .next s2 ∧ s2.pal.idx ≠ s1.pal.idx ∧
            ∀ j : Nat, (readStep s2.pal.val j).toInt =
              if j = s2.pal.idx.toNat then max 0 (min 32767 ((readStep s1.pal.val j).toInt + delta))
              else (readStep s1.pal.val j).toInt) ∧
        (d.getLsbD 1 = true → s.pal.count = 1 →
          ∃ s2, exec (.proc d) s1 = .next s2 ∧ s2.pal = s1.pal ∧ s2.pal.idx = 0) ∧
        (d.getLsbD 1 = false →
          ∃ s2 s3, exec (.proc e) s1 = .next s2 ∧ exec (.proc d) s2 = .next s3 ∧ s2.pal.val = s1.pal.val ∧
            s2.pal.lastW = 0 ∧ s3.pal.idx = s1.pal.idx ∧
            ∀ j : Nat, (readStep s3.pal.val j).toInt =
              if j = s1.pal.idx.toNat then max 0 (min 32767 ((readStep s1.pal.val j).toInt + delta))
              else (readStep s1.pal.val j).toInt)

/-- In PAL_A and PAL_C, with at least two active steps, a window that opens on a step and then takes a whole lap of gate-1
edges comes round to that step and accumulates it a second time, every other active step once, and no other step
(R163). -/
def Obligations.LapInsideWindowAccumulatesAgain : Prop :=
  ∀ (s : State) (v : PalVariant) (c d : Byte) (rest : List PortEvent), s.func = .pal v → v ≠ .w → s.pal.Inv →
    2 ≤ s.pal.count.toNat → s.pal.idx.toNat < s.pal.count.toNat → s.pal.lastW = 0 →
    c.getLsbD 1 = false → c.getLsbD 2 = true → d.getLsbD 1 = true → d.getLsbD 2 = true →
    s.port = .word (mkWord 0x6 c 0) :: (List.replicate s.pal.count.toNat (.word (mkWord 0x6 d 0)) ++ rest) →
      let delta : Int := if v = .a then s.pal.s1.toInt else s.pal.compose.toNat
      let add := fun x : Int => max 0 (min 32767 (x + delta))
      ∃ t : State, core.run (s.pal.count.toNat + 1) s = .next t ∧ t.pal.idx = s.pal.idx ∧ t.port = rest ∧
        ∀ j : Nat, (readStep t.pal.val j).toInt =
          if j = s.pal.idx.toNat then add (add (readStep s.pal.val j).toInt)
          else if j < s.pal.count.toNat then add (readStep s.pal.val j).toInt
          else (readStep s.pal.val j).toInt

/-- From index 0 and a count in its range (R30), after any sequence of ticks the PAL step index is the number of
gate-1 edges modulo `PAL_COUNT`, whatever gate 2 does (R161). -/
def Obligations.PalIndexCountsEdgesModulo : Prop :=
  ∀ (cs : List Byte) (s : State) (v : PalVariant) (rest : List PortEvent), s.func = .pal v → s.pal.Inv →
    s.pal.idx = 0 → s.port = cs.map (fun c => .word (mkWord 0x6 c 0)) ++ rest →
      ∃ t, core.run cs.length s = .next t ∧
        t.pal.idx.toNat = (cs.countP fun c => c.getLsbD 1) % s.pal.count.toNat ∧ t.pal.count = s.pal.count ∧
        t.port = rest

/-- In PAL_A a pass of `PAL_COUNT` gate-1 edges with gate 2 low returns to the same index and step values, and the
next such pass reproduces the responses of the first (R179). -/
def Obligations.PalPassIsPeriodic : Prop :=
  ∀ (s : State) (c : Byte) (rest : List PortEvent), s.func = .pal .a → s.pal.Inv →
    s.pal.idx.toNat < s.pal.count.toNat → c.getLsbD 1 = true → c.getLsbD 2 = false →
    s.port = List.replicate (2 * s.pal.count.toNat) (.word (mkWord 0x6 c 0)) ++ rest →
      ∃ t, core.run s.pal.count.toNat s = .next t ∧ t.pal = { s.pal with lastW := 0 } ∧
        (s.responses s.pal.count.toNat).length = s.pal.count.toNat ∧
        t.responses s.pal.count.toNat = s.responses s.pal.count.toNat

/-- After a tick that advances, by a gate-1 edge or, in BM_C and BM_D, by the gate-2 edge that returns to base polarity, a
BM variant stands on step 0 of its sequence, whatever that holds, or on a step above the sentinel threshold: an advance
to a sentinel snaps to 0 in the same tick (R205, R207). -/
def Obligations.AdvanceNeverLandsOnSentinel : Prop :=
  ∀ (s : State) (c : Byte) (v : BmVariant), s.func = .bm v →
    (c.getLsbD 1 = true ∨ (c.getLsbD 3 = true ∧ s.bm.flip = true ∧ (v = .c ∨ v = .d))) →
    ∃ t, exec (.proc c) s = .next t ∧ t.bm.val = s.bm.val ∧
      (t.bm.idx = 0 ∨
        s.params.bmSentinel.toInt <
          (readStep t.bm.val ((if v = .b then t.bm.frame.toNat * 4 else 0) + t.bm.idx.toNat)).toInt)

/-! ## The buffered path -/

/-- `Overwrite` appends the newest element and drops the oldest of a full queue; `ImmediateRead` takes the oldest, or
answers the zero of the element type from an empty queue and leaves it empty (R63, R64). -/
def Obligations.QueueOperationsAreFifo : Prop :=
  (∀ (α : Type) (cap : Nat) (q : List α) (y : α), q.length ≤ cap → 0 < cap →
    (overwrite cap q y).length = min (q.length + 1) cap ∧
    (q.length < cap → overwrite cap q y = q ++ [y]) ∧ (q.length = cap → overwrite cap q y = q.drop 1 ++ [y])) ∧
  (∀ (q : List Byte) (y : Byte), immediateRead 0 ([] : List Byte) = (0, []) ∧ immediateRead 0 (y :: q) = (y, q)) ∧
  ∀ (q : List Half16) (y : Half16), immediateRead 0 ([] : List Half16) = (0, []) ∧ immediateRead 0 (y :: q) = (y, q)

/-- BUF, with `OUTQ` within its capacity (R28): with a buffered function active and room for a block in `OUTQ`, it
takes `K_BLOCK` control bytes (zeros where `INQ` runs empty), appends the `K_BLOCK` samples of `fill` and responds 1;
without room, or with an unbuffered function active, it responds 0 and changes nothing else (R252). -/
def Obligations.BufFillsOneBlock : Prop :=
  (∀ (s : State) (k : Fin 8) (st : Nat), s.func = .ext k → s.exts[k.val] = some ⟨.buffered, st⟩ →
    s.outq.length ≤ s.params.rbCap →
      (s.outq.length + s.params.kBlock ≤ s.params.rbCap →
        let bytes := (s.inq ++ List.replicate s.params.kBlock 0).take s.params.kBlock
        ∃ t, exec .buf s = .next t ∧
          t = { s with
            inq := s.inq.drop s.params.kBlock
            outq := s.outq ++ (List.range s.params.kBlock).map (Config.extFillSample k st bytes)
            exts := t.exts, rsp := some ⟨1, false⟩ } ∧
          ∀ j : Fin 8, t.exts[j.val] =
            if j = k then some ⟨.buffered, Config.extFillState k st bytes⟩ else s.exts[j.val]) ∧
      (s.params.rbCap < s.outq.length + s.params.kBlock →
        exec .buf s = .next { s with rsp := some ⟨0, false⟩ })) ∧
  (∀ s : State, ((∀ k, s.func ≠ .ext k) ∨ ∃ k st, s.func = .ext k ∧ s.exts[k.val] = some ⟨.unbuffered, st⟩) →
    exec .buf s = .next { s with rsp := some ⟨0, false⟩ })

/-- Steady cadence: from an empty `INQ` and at most one block in `OUTQ`, `K_BLOCK` PROC and one BUF answer the samples
that stood in `OUTQ`, in order and zeros after them, then 1, and leave in `OUTQ` the block computed from exactly those
control bytes, in order: a latency of one block (R254). -/
def Obligations.BufferedPathDelaysOneBlock : Prop :=
  ∀ (s : State) (k : Fin 8) (st : Nat) (cs : List Byte) (rest : List PortEvent), s.params.Wf → s.func = .ext k →
    s.exts[k.val] = some ⟨.buffered, st⟩ → cs.length = s.params.kBlock → s.inq = [] →
    s.outq.length ≤ s.params.kBlock →
    s.port = cs.map (fun c => .word (mkWord 0x6 c 0)) ++ .word 0x70000000 :: rest →
      s.responses (s.params.kBlock + 1) =
        (List.range s.params.kBlock).map (fun n => some ⟨s.outq.getD n 0, false⟩) ++ [some ⟨1, false⟩] ∧
      ∃ t, core.run (s.params.kBlock + 1) s = .next t ∧ t.inq = [] ∧ t.outq = extFill s.params.kBlock k st cs ∧
        t.exts[k.val] = some ⟨.buffered, Config.extFillState k st cs⟩ ∧ t.port = rest

/-! ## Quantizer and queries -/

/-- With parameters within the constraints of R6, QNT answers the level of the bucket the magnitude falls in, with the
sign of the operand, whatever `FUNC` is, and changes no state (R114, R115, R118). -/
def Obligations.QntAnswersBucketLevel : Prop :=
  ∀ (s : State) (raw : Half16), s.params.Wf →
    ∃ (i : Fin 13) (y : Half16), exec (.qnt raw) s = .next { s with rsp := some ⟨y, false⟩ } ∧
      i.val = min 12 (raw.toInt.natAbs / s.params.qBucket) ∧
      y.toInt = (if raw.toInt < 0 then -1 else 1) *
        ((s.params.qCoeff[i.val] * s.params.qFsv.toNat / s.params.qCoeff[12] : Nat) : Int)

/-- With parameters within the constraints of R6: `Quantize(0) = 0`; odd symmetry but for -32768; `|Quantize|` is
non-decreasing in the magnitude, never above `Q_FSV`, and `Q_FSV` from the twelfth bucket on (R116). -/
def Obligations.QuantizerSymmetryAndMonotonicity : Prop :=
  ∀ p : Params, p.Wf →
    quantize p 0 = 0 ∧
    (∀ x : Half16, x.toInt ≠ -32768 → (quantize p (-x)).toInt = -(quantize p x).toInt) ∧
    (∀ x z : Half16, x.toInt.natAbs ≤ z.toInt.natAbs →
      (quantize p x).toInt.natAbs ≤ (quantize p z).toInt.natAbs) ∧
    (∀ x : Half16, (quantize p x).toInt.natAbs ≤ p.qFsv.toNat) ∧
    (∀ x : Half16, 12 * p.qBucket ≤ x.toInt.natAbs →
      (quantize p x).toInt = if x.toInt < 0 then -(p.qFsv.toNat : Int) else p.qFsv.toNat)

/-- LEDF answers `((BM_FRAME + 1) * 255) div nframes(v)` with a BM variant active and `BM_FRAME` below `nframes(v)`
(R31), 0 with any other function active, and changes no state (R215). -/
def Obligations.LedfAnswersFrame : Prop :=
  ∀ s : State,
    (∀ v, s.func = .bm v → s.bm.frame.toNat < bmFrames v →
      ∃ y : Half16, exec .ledf s = .next { s with rsp := some ⟨y, false⟩ } ∧
        y.toNat = (s.bm.frame.toNat + 1) * 255 / (if v = .b then 3 else 2) ∧ y.toNat ≤ 255) ∧
    ((∀ v, s.func ≠ .bm v) → exec .ledf s = .next { s with rsp := some ⟨0, false⟩ })

/-- LEDN answers `(BM_LASTQ + 32768) >> 8` with a BM variant active, else 0, and changes no state (R216). -/
def Obligations.LednAnswersCachedSample : Prop :=
  ∀ s : State,
    (∀ v, s.func = .bm v →
      ∃ y : Half16, exec .ledn s = .next { s with rsp := some ⟨y, false⟩ } ∧
        (y.toNat : Int) = (s.bm.lastQ.toInt + 32768) / 256 ∧ y.toNat ≤ 255) ∧
    ((∀ v, s.func ≠ .bm v) → exec .ledn s = .next { s with rsp := some ⟨0, false⟩ })

/-! ## Whole-machine rules -/

/-- Two states that agree on everything but the registers of functions that are not active cannot be told apart: a
step from both gives such states again, with the same response, or is refused in both (R21, R20). -/
def Obligations.UnselectedStateIsUnobservable : Prop :=
  ∀ s t : State, s.Agree t →
    (∃ s' t', step s = .next s' ∧ step t = .next t' ∧ s'.Agree t') ∨
      (step s = .refused .corruptFunction ∧ step t = .refused .corruptFunction)

/-- A state whose `FUNC` names an absent collaborator slot is refused by the commands that dispatch on `FUNC`; INIT and
SETFN of every function whose operations exist complete and leave a `FUNC` that names one; QNT completes, and LEDF and
LEDN respond 0. 93_implementation_defined.md I6 says to refuse any state with a corrupted entry; which commands do, and
that the others complete, is the model's choice (log entry 7). -/
def Obligations.CorruptFunctionIsRefused : Prop :=
  ∀ (s : State) (k : Fin 8) (i : Instr), s.func = .ext k → s.exts[k.val] = none →
    ((i = .cfg ∨ i = .buf ∨ (∃ m, i = .setmode m) ∨ (∃ k x, i = .setpar k x) ∨ (∃ xs, i = .cpypar xs) ∨
        ∃ c, i = .proc c) → exec i s = .refused .corruptFunction) ∧
    (∀ c, i = .init c → ∃ t, exec i s = .next t ∧ t.func = .rizm) ∧
    (∀ f, i = .setfn f → s.selectable f = true → ∃ t, exec i s = .next t ∧ t.func = f ∧ t.selectable f = true) ∧
    (∀ raw, i = .qnt raw → exec i s = .next { s with rsp := some ⟨quantize s.params raw, false⟩ }) ∧
    ((i = .ledf ∨ i = .ledn) → exec i s = .next { s with rsp := some ⟨0, false⟩ })
end

