-- ==== Sys2Proof/Laws/Bits.lean ====
section
/-!
SUPPORT. The fields of a built command word, and how it meets the masks of the opcode map.
-/

namespace Sys2Proof

@[simp] theorem wordImm_mkWord (o : BitVec 4) (a : Byte) (i : Half16) : wordImm (mkWord o a i) = i := by
  apply BitVec.eq_of_getLsbD_eq
  intro k hk
  simp [wordImm, mkWord, hk]
  grind

@[simp] theorem wordA_mkWord (o : BitVec 4) (a : Byte) (i : Half16) : wordA (mkWord o a i) = a := by
  apply BitVec.eq_of_getLsbD_eq
  intro k hk
  simp [wordA, mkWord, hk]
  grind

@[simp] theorem wordZ_mkWord (o : BitVec 4) (a : Byte) (i : Half16) : wordZ (mkWord o a i) = 0 := by
  apply BitVec.eq_of_getLsbD_eq
  intro k hk
  simp [wordZ, mkWord]
  grind

@[simp] theorem wordOpc_mkWord (o : BitVec 4) (a : Byte) (i : Half16) : wordOpc (mkWord o a i) = o := by
  apply BitVec.eq_of_getLsbD_eq
  intro k hk
  simp [wordOpc, mkWord, hk]
  grind

/-- The low `n` bits of the operand `a`, read from the word. -/
theorem extract_a_mkWord (n : Nat) (hn : n ≤ 8) (o : BitVec 4) (a : Byte) (i : Half16) :
    (mkWord o a i).extractLsb' 16 n = a.setWidth n := by
  apply BitVec.eq_of_getLsbD_eq
  intro k hk
  simp [mkWord, hk]
  grind

theorem getLsbD_16_mkWord (o : BitVec 4) (a : Byte) (i : Half16) : (mkWord o a i).getLsbD 16 = a.getLsbD 0 := by
  simp [mkWord]

/-- Two built words are equal iff their fields are. -/
theorem mkWord_inj {o o' : BitVec 4} {a a' : Byte} {i i' : Half16} :
    mkWord o a i = mkWord o' a' i' ↔ o = o' ∧ a = a' ∧ i = i' := by
  constructor
  · intro h
    exact ⟨by simpa using congrArg wordOpc h, by simpa using congrArg wordA h, by simpa using congrArg wordImm h⟩
  · rintro ⟨rfl, rfl, rfl⟩
    rfl

/-- A built word under a mask that covers the `opc` and `z` fields. -/
theorem mkWord_and (o : BitVec 4) (a b : Byte) (i c : Half16) :
    mkWord o a i &&&
        ((0xF#4).setWidth 32 <<< 28 ||| (0xF#4).setWidth 32 <<< 24 ||| b.setWidth 32 <<< 16 ||| c.setWidth 32) =
      mkWord o (a &&& b) (i &&& c) := by
  have hf : ∀ j, j < 4 → (0xF#4).getLsbD j = true := by decide
  apply BitVec.eq_of_getLsbD_eq
  intro k hk
  simp only [mkWord, BitVec.getLsbD_and, BitVec.getLsbD_or, BitVec.getLsbD_shiftLeft, BitVec.getLsbD_setWidth]
  grind

/-- Selecting a row of the opcode map, in terms of the fields. -/
theorem mkWord_selects (o k : BitVec 4) (a b : Byte) (i c : Half16) (mask pattern : Word)
    (hm : mask = (0xF#4).setWidth 32 <<< 28 ||| (0xF#4).setWidth 32 <<< 24 ||| b.setWidth 32 <<< 16 ||| c.setWidth 32)
    (hp : pattern = mkWord k 0 0) :
    (mkWord o a i &&& mask == pattern) = (o == k && (a &&& b == 0 && i &&& c == 0)) := by
  rw [hm, hp, mkWord_and, Bool.eq_iff_iff]
  simp [mkWord_inj]

/-- Every row's mask covers the `opc` and `z` fields whole, and its pattern is an opcode with zero operands. -/
theorem rows_form : ∀ r ∈ rows,
    r.mask = (0xF#4).setWidth 32 <<< 28 ||| (0xF#4).setWidth 32 <<< 24 ||| (wordA r.mask).setWidth 32 <<< 16 |||
        (wordImm r.mask).setWidth 32 ∧
      r.pattern = mkWord (wordOpc r.pattern) 0 0 := by
  decide

/-- Which row a built word selects, in terms of the fields. -/
theorem findRow_mkWord (o : BitVec 4) (a : Byte) (i : Half16) :
    findRow (mkWord o a i) =
      (rows.find? fun r =>
        o == wordOpc r.pattern && (a &&& wordA r.mask == 0 && i &&& wordImm r.mask == 0)).map Row.opc := by
  have h : ∀ l : List Row, (∀ r ∈ l, r ∈ rows) →
      l.find? (fun r => mkWord o a i &&& r.mask == r.pattern) =
        l.find? (fun r => o == wordOpc r.pattern && (a &&& wordA r.mask == 0 && i &&& wordImm r.mask == 0)) := by
    intro l
    induction l with
    | nil => intro _; rfl
    | cons r l ih =>
      intro hl
      have hr := rows_form r (hl r (by simp))
      rw [List.find?_cons, List.find?_cons, ih fun x hx => hl x (by simp [hx]),
        mkWord_selects o (wordOpc r.pattern) a (wordA r.mask) i (wordImm r.mask) r.mask r.pattern hr.1 hr.2]
  rw [findRow, h rows fun _ hr => hr]

/-! The first word of each command selects its row (R83), whatever its operands. -/

theorem classify_init (a : Byte) : classify (mkWord 0x1 a 0) = .ok .init := by
  simp [classify, findRow_mkWord, rows, wordOpc, wordA, wordImm]

theorem classify_setfn (a : Byte) (h : a &&& 0xF0 = 0) : classify (mkWord 0x2 a 0) = .ok .setfn := by
  have h' : a &&& 240#8 = 0#8 := h
  simp [classify, findRow_mkWord, rows, wordOpc, wordA, wordImm, h']

theorem classify_setmode (a : Byte) (h : a &&& 0xFE = 0) : classify (mkWord 0x3 a 0) = .ok .setmode := by
  have h' : a &&& 254#8 = 0#8 := h
  simp [classify, findRow_mkWord, rows, wordOpc, wordA, wordImm, h']

theorem classify_setpar (a : Byte) (i : Half16) (h : a &&& 0xFC = 0) : classify (mkWord 0x4 a i) = .ok .setpar := by
  have h' : a &&& 252#8 = 0#8 := h
  simp [classify, findRow_mkWord, rows, wordOpc, wordA, wordImm, h']

theorem classify_cpypar (n : Nat) (h : n ≤ 4) : classify (mkWord 0x5 (BitVec.ofNat 8 n) 0) = .ok .cpypar := by
  interval_cases n <;> decide

theorem classify_proc (a : Byte) : classify (mkWord 0x6 a 0) = .ok .proc := by
  simp [classify, findRow_mkWord, rows, wordOpc, wordA, wordImm]

theorem classify_qnt (i : Half16) : classify (mkWord 0x9 0 i) = .ok .qnt := by
  simp [classify, findRow_mkWord, rows, wordOpc, wordA, wordImm]

/-- The size field of a CPYPAR header (R88). -/
theorem copySize_mkWord (n : Nat) (h : n ≤ 4) : copySize (mkWord 0x5 (BitVec.ofNat 8 n) 0) = n := by
  interval_cases n <;> decide

/-- The bytes of a word join to the word (R69). -/
theorem joinBytes_storeWord (w : Word) :
    joinBytes (w.extractLsb' 0 8) (w.extractLsb' 8 8) (w.extractLsb' 16 8) (w.extractLsb' 24 8) = w := by
  apply BitVec.eq_of_getLsbD_eq
  intro k hk
  simp only [joinBytes, BitVec.getLsbD_or, BitVec.getLsbD_shiftLeft, BitVec.getLsbD_setWidth, BitVec.getLsbD_extractLsb']
  grind

/-- The words of a stored word come back (R69). -/
theorem loadWords_storeWord (w : Word) (bs : List Byte) : loadWords (storeWord w ++ bs) = w :: loadWords bs := by
  simp only [storeWord, List.cons_append, List.nil_append, loadWords, joinBytes_storeWord]

end Sys2Proof
end

