-- ==== Sys2Proof/Laws/State.lean ====
section
/-!
SUPPORT. What each named update of the state does to each field.
-/

namespace Sys2Proof.Machine

/-! `State.resetWith` (R33, R6). -/

@[simp] theorem State.resetWith_params (p : Params) : (State.resetWith p).params = p := rfl
@[simp] theorem State.resetWith_pal (p : Params) : (State.resetWith p).pal = Pal.reset p := rfl
@[simp] theorem State.resetWith_bm (p : Params) : (State.resetWith p).bm = Bm.reset p := rfl
@[simp] theorem palInit_eq (p : Params) (q : Pal) : palInit p q = Pal.reset p := rfl
@[simp] theorem bmInit_eq (p : Params) (b : Bm) : bmInit p b = Bm.reset p := rfl

/-! `State.respond`. -/

@[simp] theorem State.respond_p (s : State) (v : Half16) : (s.respond v).p = s.p := rfl
@[simp] theorem State.respond_func (s : State) (v : Half16) : (s.respond v).func = s.func := rfl
@[simp] theorem State.respond_chan (s : State) (v : Half16) : (s.respond v).chan = s.chan := rfl
@[simp] theorem State.respond_mode (s : State) (v : Half16) : (s.respond v).mode = s.mode := rfl
@[simp] theorem State.respond_inq (s : State) (v : Half16) : (s.respond v).inq = s.inq := rfl
@[simp] theorem State.respond_outq (s : State) (v : Half16) : (s.respond v).outq = s.outq := rfl
@[simp] theorem State.respond_rizm (s : State) (v : Half16) : (s.respond v).rizm = s.rizm := rfl
@[simp] theorem State.respond_pal (s : State) (v : Half16) : (s.respond v).pal = s.pal := rfl
@[simp] theorem State.respond_bm (s : State) (v : Half16) : (s.respond v).bm = s.bm := rfl
@[simp] theorem State.respond_exts (s : State) (v : Half16) : (s.respond v).exts = s.exts := rfl
@[simp] theorem State.respond_params (s : State) (v : Half16) : (s.respond v).params = s.params := rfl
@[simp] theorem State.respond_port (s : State) (v : Half16) : (s.respond v).port = s.port := rfl
@[simp] theorem State.respond_rsp (s : State) (v : Half16) : (s.respond v).rsp = some ⟨v, false⟩ := rfl

/-! `State.refuseWord`. -/

@[simp] theorem State.refuseWord_p (s : State) : (s.refuseWord).p = s.p := rfl
@[simp] theorem State.refuseWord_func (s : State) : (s.refuseWord).func = s.func := rfl
@[simp] theorem State.refuseWord_chan (s : State) : (s.refuseWord).chan = s.chan := rfl
@[simp] theorem State.refuseWord_mode (s : State) : (s.refuseWord).mode = s.mode := rfl
@[simp] theorem State.refuseWord_inq (s : State) : (s.refuseWord).inq = s.inq := rfl
@[simp] theorem State.refuseWord_outq (s : State) : (s.refuseWord).outq = s.outq := rfl
@[simp] theorem State.refuseWord_rizm (s : State) : (s.refuseWord).rizm = s.rizm := rfl
@[simp] theorem State.refuseWord_pal (s : State) : (s.refuseWord).pal = s.pal := rfl
@[simp] theorem State.refuseWord_bm (s : State) : (s.refuseWord).bm = s.bm := rfl
@[simp] theorem State.refuseWord_exts (s : State) : (s.refuseWord).exts = s.exts := rfl
@[simp] theorem State.refuseWord_params (s : State) : (s.refuseWord).params = s.params := rfl
@[simp] theorem State.refuseWord_port (s : State) : (s.refuseWord).port = s.port := rfl
@[simp] theorem State.refuseWord_rsp (s : State) : (s.refuseWord).rsp = some ⟨0, true⟩ := rfl

/-! `State.flush`. -/

@[simp] theorem State.flush_p (s : State) : (s.flush).p = s.p := rfl
@[simp] theorem State.flush_func (s : State) : (s.flush).func = s.func := rfl
@[simp] theorem State.flush_chan (s : State) : (s.flush).chan = s.chan := rfl
@[simp] theorem State.flush_mode (s : State) : (s.flush).mode = s.mode := rfl
@[simp] theorem State.flush_inq (s : State) : (s.flush).inq = [] := rfl
@[simp] theorem State.flush_outq (s : State) : (s.flush).outq = [] := rfl
@[simp] theorem State.flush_rizm (s : State) : (s.flush).rizm = s.rizm := rfl
@[simp] theorem State.flush_pal (s : State) : (s.flush).pal = s.pal := rfl
@[simp] theorem State.flush_bm (s : State) : (s.flush).bm = s.bm := rfl
@[simp] theorem State.flush_exts (s : State) : (s.flush).exts = s.exts := rfl
@[simp] theorem State.flush_params (s : State) : (s.flush).params = s.params := rfl
@[simp] theorem State.flush_port (s : State) : (s.flush).port = s.port := rfl
@[simp] theorem State.flush_rsp (s : State) : (s.flush).rsp = s.rsp := rfl

/-! `State.setParam`. -/

@[simp] theorem State.setParam_p (s : State) (i : Fin 4) (v : Half16) : (s.setParam i v).p = s.p.set i.val v := rfl
@[simp] theorem State.setParam_func (s : State) (i : Fin 4) (v : Half16) : (s.setParam i v).func = s.func := rfl
@[simp] theorem State.setParam_chan (s : State) (i : Fin 4) (v : Half16) : (s.setParam i v).chan = s.chan := rfl
@[simp] theorem State.setParam_mode (s : State) (i : Fin 4) (v : Half16) : (s.setParam i v).mode = s.mode := rfl
@[simp] theorem State.setParam_inq (s : State) (i : Fin 4) (v : Half16) : (s.setParam i v).inq = s.inq := rfl
@[simp] theorem State.setParam_outq (s : State) (i : Fin 4) (v : Half16) : (s.setParam i v).outq = s.outq := rfl
@[simp] theorem State.setParam_rizm (s : State) (i : Fin 4) (v : Half16) : (s.setParam i v).rizm = s.rizm := rfl
@[simp] theorem State.setParam_pal (s : State) (i : Fin 4) (v : Half16) : (s.setParam i v).pal = s.pal := rfl
@[simp] theorem State.setParam_bm (s : State) (i : Fin 4) (v : Half16) : (s.setParam i v).bm = s.bm := rfl
@[simp] theorem State.setParam_exts (s : State) (i : Fin 4) (v : Half16) : (s.setParam i v).exts = s.exts := rfl
@[simp] theorem State.setParam_params (s : State) (i : Fin 4) (v : Half16) : (s.setParam i v).params = s.params := rfl
@[simp] theorem State.setParam_port (s : State) (i : Fin 4) (v : Half16) : (s.setParam i v).port = s.port := rfl
@[simp] theorem State.setParam_rsp (s : State) (i : Fin 4) (v : Half16) : (s.setParam i v).rsp = s.rsp := rfl

/-! `State.withFetchWord`. -/

@[simp] theorem State.withFetchWord_p (s : State) (n w : Nat) : (s.withFetchWord n w).p = s.p := rfl
@[simp] theorem State.withFetchWord_func (s : State) (n w : Nat) : (s.withFetchWord n w).func = s.func := rfl
@[simp] theorem State.withFetchWord_chan (s : State) (n w : Nat) : (s.withFetchWord n w).chan = s.chan := rfl
@[simp] theorem State.withFetchWord_mode (s : State) (n w : Nat) : (s.withFetchWord n w).mode = s.mode := rfl
@[simp] theorem State.withFetchWord_inq (s : State) (n w : Nat) : (s.withFetchWord n w).inq = s.inq := rfl
@[simp] theorem State.withFetchWord_outq (s : State) (n w : Nat) : (s.withFetchWord n w).outq = s.outq := rfl
@[simp] theorem State.withFetchWord_rizm (s : State) (n w : Nat) : (s.withFetchWord n w).rizm = s.rizm := rfl
@[simp] theorem State.withFetchWord_pal (s : State) (n w : Nat) : (s.withFetchWord n w).pal = s.pal := rfl
@[simp] theorem State.withFetchWord_bm (s : State) (n w : Nat) : (s.withFetchWord n w).bm = s.bm := rfl
@[simp] theorem State.withFetchWord_exts (s : State) (n w : Nat) : (s.withFetchWord n w).exts = s.exts := rfl
@[simp] theorem State.withFetchWord_params (s : State) (n w : Nat) : (s.withFetchWord n w).params = s.params := rfl
@[simp] theorem State.withFetchWord_port (s : State) (n w : Nat) : (s.withFetchWord n w).port = (tableWords n w).map PortEvent.word := rfl
@[simp] theorem State.withFetchWord_rsp (s : State) (n w : Nat) : (s.withFetchWord n w).rsp = s.rsp := rfl

/-! `State.configure` writes the registers of the active function alone (R236). -/

@[simp] theorem State.configure_p (s : State) : s.configure.p = s.p := by
  unfold State.configure configureFn; split <;> rfl

@[simp] theorem State.configure_func (s : State) : s.configure.func = s.func := by
  unfold State.configure configureFn; split <;> rfl

@[simp] theorem State.configure_chan (s : State) : s.configure.chan = s.chan := by
  unfold State.configure configureFn; split <;> rfl

@[simp] theorem State.configure_mode (s : State) : s.configure.mode = s.mode := by
  unfold State.configure configureFn; split <;> rfl

@[simp] theorem State.configure_inq (s : State) : s.configure.inq = s.inq := by
  unfold State.configure configureFn; split <;> rfl

@[simp] theorem State.configure_outq (s : State) : s.configure.outq = s.outq := by
  unfold State.configure configureFn; split <;> rfl

@[simp] theorem State.configure_params (s : State) : s.configure.params = s.params := by
  unfold State.configure configureFn; split <;> rfl

@[simp] theorem State.configure_port (s : State) : s.configure.port = s.port := by
  unfold State.configure configureFn; split <;> rfl

@[simp] theorem State.configure_rsp (s : State) : s.configure.rsp = s.rsp := by
  unfold State.configure configureFn; split <;> rfl

/-! `initFn` writes the registers of the function it names alone (R238). -/

@[simp] theorem initFn_p (f : Fn) (s : State) : (initFn f s).p = s.p := by
  cases f <;> rfl

@[simp] theorem initFn_func (f : Fn) (s : State) : (initFn f s).func = s.func := by
  cases f <;> rfl

@[simp] theorem initFn_chan (f : Fn) (s : State) : (initFn f s).chan = s.chan := by
  cases f <;> rfl

@[simp] theorem initFn_mode (f : Fn) (s : State) : (initFn f s).mode = s.mode := by
  cases f <;> rfl

@[simp] theorem initFn_inq (f : Fn) (s : State) : (initFn f s).inq = s.inq := by
  cases f <;> rfl

@[simp] theorem initFn_outq (f : Fn) (s : State) : (initFn f s).outq = s.outq := by
  cases f <;> rfl

@[simp] theorem initFn_params (f : Fn) (s : State) : (initFn f s).params = s.params := by
  cases f <;> rfl

@[simp] theorem initFn_port (f : Fn) (s : State) : (initFn f s).port = s.port := by
  cases f <;> rfl

@[simp] theorem initFn_rsp (f : Fn) (s : State) : (initFn f s).rsp = s.rsp := by
  cases f <;> rfl

end Sys2Proof.Machine
end

