-- ==== Sys2Proof/Laws/Ops.lean ====
section
/-!
SUPPORT. One lemma for each shared operation that says what it can do.
-/

namespace Sys2Proof.Machine

/-! Arithmetic (R9, R10, R176). -/

theorem clip16_bounds (x : Int) : -32768 ≤ clip16 x ∧ clip16 x ≤ 32767 := by
  unfold clip16; split <;> (try split) <;> omega

theorem clip0_bounds (x : Int) : 0 ≤ clip0 x ∧ clip0 x ≤ 32767 := by
  unfold clip0; split <;> (try split) <;> omega

/-- A value in the `int16` range is stored exactly. -/
theorem int16_toInt {x : Int} (h : -32768 ≤ x ∧ x ≤ 32767) : (int16 x).toInt = x := by
  unfold int16
  rw [BitVec.toInt_ofInt]
  exact Int.bmod_eq_of_le (by omega) (by omega)

theorem half16_toInt_bounds (x : Half16) : -32768 ≤ x.toInt ∧ x.toInt ≤ 32767 := by
  have h1 := BitVec.le_toInt x
  have h2 := BitVec.toInt_lt (x := x)
  norm_num at h1 h2
  omega

@[simp] theorem int16_of_toInt (x : Half16) : int16 x.toInt = x := by simp [int16]

theorem bipolar_toInt (p : Half16) : (bipolar p).toInt = (p.toNat : Int) - 32768 := by
  have := p.isLt
  exact int16_toInt (by omega)

theorem bipolar_mid : bipolar 0x8000 = 0 := by decide

theorem halved_toNat (e : Half16) : (halved e).toNat = e.toNat / 2 := by
  have := e.isLt
  simp only [halved, BitVec.toNat_ofNat]
  omega

theorem satneg_toInt (x : Half16) : (satneg x).toInt = if x.toInt = -32768 then 32767 else -x.toInt := by
  have := half16_toInt_bounds x
  unfold satneg
  split
  · decide
  · exact int16_toInt (by omega)

theorem clip16_eq (x : Int) : clip16 x = max (-32768) (min 32767 x) := by
  unfold clip16; split <;> (try split) <;> omega

theorem clip0_eq (x : Int) : clip0 x = max 0 (min 32767 x) := by
  unfold clip0; split <;> (try split) <;> omega

/-- What the PAL scaling gives, for any `PAL_SCALE` (R176, log entry 10). -/
theorem scaleOut_toInt (scale x : Int) :
    (scaleOut scale x).toInt = max (-32768) (min 32767 (x * scale / 65536)) := by
  rw [scaleOut, int16_toInt (clip16_bounds _), clip16_eq]

/-- With the `PAL_SCALE` of R6 nothing saturates and the output lies in -20480 to 20479 (R176). -/
theorem scaleOut_40960 {x : Int} (h : -32768 ≤ x ∧ x ≤ 32767) :
    (scaleOut 40960 x).toInt = x * 40960 / 65536 ∧ -20480 ≤ x * 40960 / 65536 ∧ x * 40960 / 65536 ≤ 20479 := by
  rw [scaleOut_toInt]
  omega

/-! Step arrays (R61). -/

/-- A write inside the array is read back, and every other element reads as before. -/
theorem readStep_writeStep (x : List Half16) (i : Nat) (v : Half16) (j : Nat) (h : i < x.length) :
    readStep (writeStep x i v) j = if i = j then v else readStep x j := by
  simp only [readStep, writeStep, List.getD_eq_getElem?_getD, List.getElem?_set]
  split <;> rfl

/-- A write outside the array changes nothing. -/
theorem writeStep_of_le (x : List Half16) (i : Nat) (v : Half16) (h : x.length ≤ i) : writeStep x i v = x :=
  List.set_eq_of_length_le h

@[simp] theorem length_writeStep (x : List Half16) (i : Nat) (v : Half16) : (writeStep x i v).length = x.length :=
  List.length_set

@[simp] theorem readStep_replicate (n j : Nat) : readStep (List.replicate n 0) j = 0 := by
  simp only [readStep, List.getD_eq_getElem?_getD, List.getElem?_replicate]
  split <;> rfl

/-! Ring buffers (R62 to R64). -/

/-- R63: after `Overwrite`, `len(Q) = min(old len + 1, RB_CAP)`, for a queue within its capacity. -/
theorem length_overwrite {α : Type} (cap : Nat) (q : List α) (v : α) (h : q.length ≤ cap) (hc : 0 < cap) :
    (overwrite cap q v).length = min (q.length + 1) cap := by
  unfold overwrite
  split <;> simp <;> omega

theorem overwrite_of_lt {α : Type} (cap : Nat) (q : List α) (v : α) (h : q.length < cap) :
    overwrite cap q v = q ++ [v] := by
  simp [overwrite, Nat.not_le.mpr h]

/-- R64. -/
theorem immediateRead_eq {α : Type} (z : α) (q : List α) : immediateRead z q = (q.headD z, q.tail) := by
  cases q <;> rfl

/-- `K_BLOCK` reads: the oldest bytes, zeros where `INQ` runs empty, and the queue without them (R252). -/
theorem readBlock_eq (n : Nat) (q : List Byte) : readBlock n q = ((q ++ List.replicate n 0).take n, q.drop n) := by
  induction n generalizing q with
  | zero => simp [readBlock]
  | succ n ih =>
    cases q with
    | nil => simp [readBlock, immediateRead, ih, List.replicate_succ]
    | cons b q =>
      simp [readBlock, immediateRead, ih, List.take_append, List.take_replicate]
      omega

/-- A block that fits is appended: BUF drops no sample (R252). -/
theorem writeBlock_of_fits (cap : Nat) (q out : List Half16) (h : q.length + out.length ≤ cap) :
    writeBlock cap q out = q ++ out := by
  induction out generalizing q with
  | nil => simp [writeBlock]
  | cons v out ih =>
    have hl : q.length < cap := by simp at h; omega
    have := ih (q ++ [v]) (by simp at h ⊢; omega)
    simpa [writeBlock, overwrite_of_lt cap q v hl] using this

@[simp] theorem length_extFill (n : Nat) (k : Fin 8) (st : Nat) (bs : List Byte) : (extFill n k st bs).length = n := by
  simp [extFill]

/-! Collaborator slots (R262). -/

theorem getElem_updateExt (x : Vector (Option ExtInst) 8) (k : Fin 8) (f : Nat → Nat) (j : Fin 8) :
    (updateExt x k f)[j.val] = if k = j then (x[j.val]).map (fun e => { e with st := f e.st }) else x[j.val] := by
  unfold updateExt
  rw [Vector.getElem_set]
  by_cases h : k = j
  · subst h; simp
  · rw [if_neg (fun e => h (Fin.ext e)), if_neg h]

/-- Updates of a slot keep every slot's presence and style. -/
theorem style_updateExt (x : Vector (Option ExtInst) 8) (k : Fin 8) (f : Nat → Nat) (j : Fin 8) :
    ((updateExt x k f)[j.val]).map ExtInst.style = (x[j.val]).map ExtInst.style := by
  rw [getElem_updateExt]
  split <;> simp [Function.comp_def]

theorem getElem_foldl_initExt (c : Byte) (j : Fin 8) (l : List (Fin 8)) (x : Vector (Option ExtInst) 8) :
    (l.foldl (fun x k => updateExt x k fun _ => Config.extInit k c) x)[j.val] =
      if j ∈ l then (x[j.val]).map (fun e => { e with st := Config.extInit j c }) else x[j.val] := by
  induction l generalizing x with
  | nil => simp
  | cons k l ih =>
    rw [List.foldl_cons, ih, getElem_updateExt]
    by_cases hk : k = j
    · subst hk
      simp [Function.comp_def]
    · have : ¬ j = k := fun e => hk e.symm
      simp [hk, this]

/-- Every present slot is initialised with `CHAN`, absent slots stay absent (R232). -/
theorem getElem_initExts (c : Byte) (x : Vector (Option ExtInst) 8) (j : Fin 8) :
    (initExts c x)[j.val] = (x[j.val]).map fun e => { e with st := Config.extInit j c } := by
  rw [initExts, getElem_foldl_initExt, if_pos]
  revert j
  decide

/-- `configure` of a collaborator is idempotent (R262, R237). -/
theorem extConfigure_idem (k : Fin 8) (p : Knobs) (m : Mode) (st : Nat) :
    extConfigure k p m (extConfigure k p m st) = extConfigure k p m st := by
  unfold extConfigure
  grind

/-! Dispatch (R286). -/

/-- A dispatched command completes exactly where the operations of `FUNC` exist. -/
theorem dispatched_next (s t u : State) : s.dispatched t = .next u ↔ s.selectable s.func = true ∧ u = t := by
  unfold State.dispatched
  by_cases h : s.selectable s.func = true
  · rw [if_pos h]
    constructor
    · intro e
      cases e
      exact ⟨h, rfl⟩
    · rintro ⟨-, rfl⟩
      rfl
  · rw [if_neg h]
    constructor
    · intro e
      cases e
    · intro e
      exact absurd e.1 h

theorem dispatched_of_selectable (s t : State) (h : s.selectable s.func = true) : s.dispatched t = .next t := by
  simp [State.dispatched, h]

/-! The command port (R91). -/

/-- Taking words that the host has presented. -/
theorem takeWords_append (ds : List Word) (rest : List PortEvent) :
    takeWords ds.length (ds.map PortEvent.word ++ rest) = .got ds rest := by
  induction ds with
  | nil => rfl
  | cons d ds ih => simp [takeWords, ih]

/-- Fewer words than asked for, and nothing after them: the block waits (R88). -/
theorem takeWords_starved (n : Nat) (ds : List Word) (h : ds.length < n) :
    takeWords n (ds.map PortEvent.word) = .starved := by
  induction n generalizing ds with
  | zero => omega
  | succ n ih =>
    cases ds with
    | nil => rfl
    | cons d ds => simp [takeWords, ih ds (by simpa using h)]

/-- Fewer words than asked for, and then the reset input (R300, log entry 1). -/
theorem takeWords_reset (n : Nat) (ds : List Word) (rest : List PortEvent) (h : ds.length < n) :
    takeWords n (ds.map PortEvent.word ++ .rst :: rest) = .reset rest := by
  induction n generalizing ds with
  | zero => omega
  | succ n ih =>
    cases ds with
    | nil => rfl
    | cons d ds => simp [takeWords, ih ds (by simpa using h)]

end Sys2Proof.Machine
end

