-- ==== Sys2Proof/Laws/PerInstr.lean ====
section
/-!
SUPPORT. Facts about every command as syntax, one lemma for each constructor of `Instr`.
-/

namespace Sys2Proof

/-- The unused bits of a SETFN operand are zero (R85). -/
theorem code_unused (f : Fn) : f.code.setWidth 8 &&& 0xF0 = 0 := by
  cases f with
  | rizm => decide
  | pal v => cases v <;> decide
  | bm v => cases v <;> decide
  | ext k => revert k; decide

/-- The unused bits of a SETMODE operand are zero (R86). -/
theorem mode_unused (m : Mode) : (BitVec.ofBool m.bit).setWidth 8 &&& 0xFE = 0 := by cases m <;> decide

/-- The unused bits of a SETPAR operand are zero (R87). -/
theorem idx_unused (k : Fin 4) : BitVec.ofNat 8 k.val &&& 0xFC = 0 := by revert k; decide

/-- A code names the function it was made from (R95). -/
theorem ofCode_code (f : Fn) : Fn.ofCode f.code = f := by
  cases f with
  | rizm => rfl
  | pal v => cases v <;> rfl
  | bm v => cases v <;> rfl
  | ext k => revert k; decide

/-- A function is coded by the code it was made from (R95). -/
theorem code_ofCode (c : BitVec 4) : (Fn.ofCode c).code = c := by revert c; decide

namespace Laws.EncodeShape

/-- The words of a well-formed command are a first word with a zero `z` field, and as many data words as that word says
follow it (R81, R91). -/
def Statement (i : Instr) : Prop :=
  i.wf = true → ∃ w ds, encode i = w :: ds ∧ wordZ w = 0 ∧ ds.length = dataCount w

theorem init (index : Byte) : Statement (.init index) := fun _ =>
  ⟨_, [], rfl, wordZ_mkWord .., by rw [dataCount, classify_init]; rfl⟩

theorem setfn (f : Fn) : Statement (.setfn f) := fun _ =>
  ⟨_, [], rfl, wordZ_mkWord .., by rw [dataCount, classify_setfn _ (code_unused f)]; rfl⟩

theorem setmode (m : Mode) : Statement (.setmode m) := fun _ =>
  ⟨_, [], rfl, wordZ_mkWord .., by rw [dataCount, classify_setmode _ (mode_unused m)]; rfl⟩

theorem setpar (idx : Fin 4) (value : Half16) : Statement (.setpar idx value) := fun _ =>
  ⟨_, [], rfl, wordZ_mkWord .., by rw [dataCount, classify_setpar _ value (idx_unused idx)]; rfl⟩

theorem cpypar (values : List Half16) : Statement (.cpypar values) := fun h => by
  have hn : values.length ≤ 4 := by simpa [Instr.wf] using h
  exact ⟨_, _, rfl, wordZ_mkWord .., by
    rw [dataCount, classify_cpypar _ hn, List.length_map]
    exact (copySize_mkWord _ hn).symm⟩

theorem proc (control : Byte) : Statement (.proc control) := fun _ =>
  ⟨_, [], rfl, wordZ_mkWord .., by rw [dataCount, classify_proc]; rfl⟩

theorem buf : Statement .buf := fun _ => ⟨_, [], rfl, wordZ_mkWord .., by decide⟩

theorem cfg : Statement .cfg := fun _ => ⟨_, [], rfl, wordZ_mkWord .., by decide⟩

theorem qnt (raw : Half16) : Statement (.qnt raw) := fun _ =>
  ⟨_, [], rfl, wordZ_mkWord .., by rw [dataCount, classify_qnt]; rfl⟩

theorem ledf : Statement .ledf := fun _ => ⟨_, [], rfl, wordZ_mkWord .., by decide⟩

theorem ledn : Statement .ledn := fun _ => ⟨_, [], rfl, wordZ_mkWord .., by decide⟩

end Laws.EncodeShape

end Sys2Proof
end

