-- ==== Sys2Proof/Laws/Process.lean ====
section
/-!
SUPPORT. What a tick of each family never writes: the registers that only Configure and init write (10_state.md rules
R29 to R31); and that no tick and no Configure changes the size of a step array.
-/

namespace Sys2Proof.Machine

/-! PatternGenerator. -/

@[simp] theorem rizmProcess_selA (p : Params) (c : Byte) (r : Rizm) : (rizmProcess p c r).1.selA = r.selA := rfl
@[simp] theorem rizmProcess_selB (p : Params) (c : Byte) (r : Rizm) : (rizmProcess p c r).1.selB = r.selB := rfl
@[simp] theorem rizmProcess_bal (p : Params) (c : Byte) (r : Rizm) : (rizmProcess p c r).1.bal = r.bal := rfl
@[simp] theorem rizmProcess_lvl (p : Params) (c : Byte) (r : Rizm) : (rizmProcess p c r).1.lvl = r.lvl := rfl

/-! AccentSequencer: the count and the five scalars. -/

/-- The registers that `palConfigure` derives are those of `q`. -/
abbrev Pal.SameScalars (r q : Pal) : Prop :=
  r.count = q.count ∧ r.s1 = q.s1 ∧ r.offset = q.offset ∧ r.metro = q.metro ∧ r.compose = q.compose ∧
    r.decompose = q.decompose

theorem Pal.SameScalars.trans {a b c : Pal} (h : a.SameScalars b) (k : b.SameScalars c) : a.SameScalars c :=
  ⟨h.1.trans k.1, h.2.1.trans k.2.1, h.2.2.1.trans k.2.2.1, h.2.2.2.1.trans k.2.2.2.1,
    h.2.2.2.2.1.trans k.2.2.2.2.1, h.2.2.2.2.2.trans k.2.2.2.2.2⟩

theorem palRevalidate_scalars (q : Pal) : (palRevalidate q).SameScalars q := by
  unfold palRevalidate
  split <;> exact ⟨rfl, rfl, rfl, rfl, rfl, rfl⟩

theorem palAdvance_scalars (v : PalVariant) (c : Byte) (q : Pal) : (palAdvance v c q).SameScalars q := by
  cases v <;> simp only [palAdvance] <;> split <;>
    first
      | exact ⟨rfl, rfl, rfl, rfl, rfl, rfl⟩
      | (split <;> exact ⟨rfl, rfl, rfl, rfl, rfl, rfl⟩)

theorem palAccumulate_scalars (d : Int) (q : Pal) : (palAccumulate d q).SameScalars q := by
  unfold palAccumulate
  split <;> exact ⟨rfl, rfl, rfl, rfl, rfl, rfl⟩

theorem palGate2_scalars (v : PalVariant) (c : Byte) (q : Pal) : (palGate2 v c q).SameScalars q := by
  cases v <;> simp only [palGate2] <;> split <;>
    first
      | exact ⟨rfl, rfl, rfl, rfl, rfl, rfl⟩
      | exact palAccumulate_scalars _ _

/-- A tick of a PAL variant writes none of the registers that Configure derives. -/
theorem palProcess_scalars (p : Params) (v : PalVariant) (c : Byte) (q : Pal) :
    (palProcess p v c q).1.SameScalars q :=
  ((palGate2_scalars v c _).trans (palAdvance_scalars v c _)).trans (palRevalidate_scalars q)

/-! AccentSequencer: the number of steps in the array (R151). -/

@[simp] theorem length_palSet (q : Pal) (i : BitVec 4) (v : Half16) : (palSet q i v).val.length = q.val.length :=
  length_writeStep _ _ _

theorem palRevalidate_length (q : Pal) : (palRevalidate q).val.length = q.val.length := by
  unfold palRevalidate
  split <;> rfl

theorem palAdvance_length (v : PalVariant) (c : Byte) (q : Pal) : (palAdvance v c q).val.length = q.val.length := by
  cases v <;> simp only [palAdvance] <;> split <;> (try split) <;> simp

theorem palAccumulate_length (d : Int) (q : Pal) : (palAccumulate d q).val.length = q.val.length := by
  unfold palAccumulate
  split <;> simp

theorem palGate2_length (v : PalVariant) (c : Byte) (q : Pal) : (palGate2 v c q).val.length = q.val.length := by
  cases v <;> simp only [palGate2] <;> split <;> simp [palAccumulate_length]

/-- A tick of a PAL variant keeps the size of the step array. -/
theorem palProcess_length (p : Params) (v : PalVariant) (c : Byte) (q : Pal) :
    (palProcess p v c q).1.val.length = q.val.length :=
  ((palGate2_length v c _).trans (palAdvance_length v c _)).trans (palRevalidate_length q)

/-! ChromaticStepSequencer: the step values, the count and the snapshots. -/

/-- The registers that `bmConfigure` writes are those of `b`. -/
abbrev Bm.SameLatched (a b : Bm) : Prop := a.val = b.val ∧ a.count = b.count ∧ a.snap = b.snap

theorem Bm.SameLatched.trans {a b c : Bm} (h : a.SameLatched b) (k : b.SameLatched c) : a.SameLatched c :=
  ⟨h.1.trans k.1, h.2.1.trans k.2.1, h.2.2.trans k.2.2⟩

theorem bmRevalidate_latched (b : Bm) : (bmRevalidate b).SameLatched b := by
  unfold bmRevalidate
  split <;> exact ⟨rfl, rfl, rfl⟩

theorem bmAdvance_latched (p : Params) (v : BmVariant) (b : Bm) : (bmAdvance p v b).SameLatched b := by
  simp only [bmAdvance]
  generalize (if b.count.toNat ≤ b.idx.toNat + 1 then 0 else b.idx + 1 : BitVec 4) = i
  split <;> exact ⟨rfl, rfl, rfl⟩

theorem bmGate2_latched (p : Params) (v : BmVariant) (c : Byte) (b : Bm) : (bmGate2 p v c b).SameLatched b := by
  unfold bmGate2
  split
  · cases bmRole v with
    | frame => exact ⟨rfl, rfl, rfl⟩
    | flip =>
      simp only
      split
      · exact ⟨rfl, rfl, rfl⟩
      · exact bmAdvance_latched p v { b with flip := !b.flip }
  · exact ⟨rfl, rfl, rfl⟩

theorem bmGate1_latched (p : Params) (v : BmVariant) (c : Byte) (b : Bm) : (bmGate1 p v c b).SameLatched b := by
  unfold bmGate1
  split
  · exact bmAdvance_latched p v b
  · exact ⟨rfl, rfl, rfl⟩

theorem bmFollow_latched (v : BmVariant) (b : Bm) : (bmFollow v b).SameLatched b := by
  unfold bmFollow
  split <;> exact ⟨rfl, rfl, rfl⟩

/-- A tick of a BM variant writes no step value, no count and no snapshot. -/
theorem bmProcess_latched (p : Params) (v : BmVariant) (c : Byte) (b : Bm) : (bmProcess p v c b).1.SameLatched b :=
  (((bmFollow_latched v _).trans (bmGate1_latched p v c _)).trans (bmGate2_latched p v c _)).trans
    (bmRevalidate_latched b)

/-! ChromaticStepSequencer: the number of steps in the array (R191). -/

theorem bmLatch_length (v : BmVariant) (e : Knobs) (b : Bm) (k : Fin 4) :
    (bmLatch v e b k).val.length = b.val.length := by
  unfold bmLatch
  split <;> simp only
  split <;> simp

/-- A Configure of a BM variant keeps the size of the step array. -/
theorem bmConfigure_length (v : BmVariant) (e : Knobs) (b : Bm) : (bmConfigure v e b).val.length = b.val.length := by
  have h : ∀ (l : List (Fin 4)) (b : Bm), (l.foldl (bmLatch v e) b).val.length = b.val.length := by
    intro l
    induction l with
    | nil => intro _; rfl
    | cons k l ih => intro b; rw [List.foldl_cons, ih, bmLatch_length]
  exact h _ b

end Sys2Proof.Machine
end

