-- ==== Sys2Proof/Tests/Slice0.lean ====
section
/-!
SUPPORT. Tests. Expected values are those of 95_test_vectors.md (the vector is named beside each test) or worked out by
hand from the rule named. The second half shows, for every statement that has hypotheses, a state and operands that
meet them together.
-/

namespace Sys2Proof.Machine

/-! ## Helpers -/

/-- The state an outcome goes on in, or `s` where it does not. -/
def nextOr (s : State) : Host.Outcome State Fault Refusal → State
  | .next t => t
  | .fault _ => s
  | .refused _ => s

/-- The state after some commands. -/
def after (is : List Instr) (s : State) : State := is.foldl (fun s i => nextOr s (exec i s)) s

/-- The response to the last of some commands, as an `int16`. -/
def answer (is : List Instr) (s : State) : Option Int := (after is s).rsp.map fun r => r.value.toInt

/-- A step from reset with these words on the port. -/
def stepWords (ws : List Word) : State := nextOr State.reset (step { State.reset with port := ws.map PortEvent.word })

/-- Reset with function `f` selected. -/
def sel (f : Fn) : State := after [.setfn f] State.reset

/-- A state in which the collaborator in slot `8 + k` is active, with style `y` and coded state 7. -/
def withExt (k : Fin 8) (y : ExtStyle) : State :=
  { State.reset with func := .ext k, exts := State.reset.exts.set k.val (some ⟨y, 7⟩) }

/-! ## WellFormed -/

theorem test_cpypar_of_five_values_is_ill_formed : (Instr.cpypar [0, 0, 0, 0, 0]).wf = false := by decide
theorem test_cpypar_of_four_values_is_well_formed : (Instr.cpypar [0, 0, 0, 0]).wf = true := by decide

/-! ## Decode: fields written bit by bit, opc.z.a.imm16, from R84 to R90, R118, R215, R216 -/

theorem test_decode_init : decode [0b0001000011111111#16 ++ 0b0000000000000000#16] = .ok (.init 255) := by decide
theorem test_decode_setfn : decode [0b0010000000000111#16 ++ 0b0000000000000000#16] = .ok (.setfn (.bm .d)) := by decide
theorem test_decode_setfn_ext : decode [0b0010000000001111#16 ++ 0b0000000000000000#16] = .ok (.setfn (.ext 7)) := by
  decide
theorem test_decode_setmode : decode [0b0011000000000001#16 ++ 0b0000000000000000#16] = .ok (.setmode .half) := by
  decide
theorem test_decode_setpar :
    decode [0b0100000000000011#16 ++ 0b1011111011101111#16] = .ok (.setpar 3 0xBEEF) := by decide
theorem test_decode_cpypar :
    decode [0b0101000000000010#16 ++ 0b0000000000000000#16, 0x00001000, 0x0000FFFF, 0x00000003] =
      .ok (.cpypar [0x1000, 0xFFFF]) := by decide
theorem test_decode_proc : decode [0b0110000010100101#16 ++ 0b0000000000000000#16] = .ok (.proc 0xA5) := by decide
theorem test_decode_buf : decode [0b0111000000000000#16 ++ 0b0000000000000000#16] = .ok .buf := by decide
theorem test_decode_cfg : decode [0b1000000000000000#16 ++ 0b0000000000000000#16] = .ok .cfg := by decide
theorem test_decode_qnt : decode [0b1001000000000000#16 ++ 0b1101100011110000#16] = .ok (.qnt 0xD8F0) := by decide
theorem test_decode_ledf : decode [0b1010000000000000#16 ++ 0b0000000000000000#16] = .ok .ledf := by decide
theorem test_decode_ledn : decode [0b1011000000000000#16 ++ 0b0000000000000000#16] = .ok .ledn := by decide

/-- The refused words of V-E2, each by its reason (R91). -/
theorem test_refused_words :
    [0x00000000, 0xC0000000, 0xF0000000].map (fun w => decode [w]) =
        List.replicate 3 (.error .reservedOpcode) ∧
      decode [0x61030000] = .error .reservedZ ∧
      [0x20100000, 0x30020000, 0x40040000, 0x70000001, 0x80010000, 0x90010000, 0xA0000001, 0x10000001].map
          (fun w => decode [w]) = List.replicate 8 (.error .unusedBits) ∧
      decode [0x50050000] = .error .sizeAboveFour ∧
      decode [0x50020000, 0x00001000, 0x0001FFFF] = .error .dataUpperHalf := by decide

/-- R69: `0x60030000` is stored as the bytes 00 00 03 60. -/
theorem test_bytes_are_little_endian :
    storeWord 0x60030000 = [0x00, 0x00, 0x03, 0x60] ∧ decodeBytes [0x00, 0x00, 0x03, 0x60] = .ok (.proc 0x03) := by
  decide

/-- The host's numbering: the second word of CPYPAR counts on from bit 32. -/
theorem test_decode_table_word :
    decodeTableWord 32 0x90002710 = some (.qnt 10000) ∧ decodeTableWord 32 0x50020000 = some (.cpypar [0, 0]) ∧
      decodeTableWord 64 0x0000ABCD50010000 = some (.cpypar [0xABCD]) ∧ decodeTableWord 32 0x61030000 = none := by
  decide

/-! ## One step, one command (V-E1, R285, R300) -/

theorem test_step_init : (stepWords [0x10FF0000]).chan = 255 := by decide
theorem test_step_refused_word : (stepWords [0x61030000]).rsp = some ⟨0, true⟩ := by decide
theorem test_step_absent_slot :
    (stepWords [0x20080000]).rsp = some ⟨0, true⟩ ∧ (stepWords [0x20080000]).func = .rizm := by decide
theorem test_step_refused_cpypar_takes_all_words :
    (stepWords [0x50020000, 0x00001000, 0x0001FFFF, 0x60000000]).port = [.word 0x60000000] := by decide
theorem test_step_short_cpypar_waits : (stepWords [0x50020000, 0x00001000]).rsp = none := by decide
theorem test_fetch_word_runs : (nextOr State.reset (step (State.reset.withFetchWord 32 0x60000000))).rsp =
    some ⟨16383, false⟩ := by decide

/-! ## Meanings -/

/-- R33: the derived registers of RIZM for mid-scale knobs. -/
theorem test_init_derives : (after [.setpar 0 0, .init 1] State.reset).rizm = Rizm.reset := by decide
/-- V-BD1. -/
theorem test_setfn_bm_d : (sel (.bm .d)).bm.count = 5 := by decide
/-- R199. -/
theorem test_setfn_loads_frame_zero :
    readStep (after [.setpar 2 0x9000, .setfn (.bm .a)] State.reset).bm.val 2 = 4096 := by decide
/-- V-R7. -/
theorem test_setmode_half : (after [.setmode .half] State.reset).rizm.lvl = 16384 := by decide
/-- V-BA6: HALF mode mirrors knob 0 into slot 2. -/
theorem test_setmode_mirror :
    readStep (after [.setmode .half, .setpar 0 0xC000] (sel (.bm .a))).bm.val 2 = 16384 := by decide
/-- R242: the example. -/
theorem test_setpar : (after [.setpar 0 0xFFFF] (sel (.pal .a))).pal.count = 16 := by decide
/-- V-P0. -/
theorem test_setpar_strength : (after [.setpar 1 0x7FFB] (sel (.pal .w))).pal.s1.toInt = -5 := by decide
/-- V-PC1. -/
theorem test_cpypar : (after [.cpypar [0x1000, 0x4000, 0x2000]] (sel (.pal .c))).pal.decompose = 4096 := by decide
/-- R244: registers above the size keep their values. -/
theorem test_cpypar_prefix : (after [.cpypar [1]] State.reset).p = #v[1, 0x8000, 0x8000, 0x8000] := by decide
/-- V-BA2: a knob moved on frame 1 writes step 5. -/
theorem test_latch_in_frame :
    (readStep (after [.proc 0x0C, .setpar 1 0] (sel (.bm .a))).bm.val 5).toInt = -32768 := by decide
/-- R237. -/
theorem test_cfg_idempotent : (after [.cfg] (sel (.bm .d))).bm = (sel (.bm .d)).bm := by decide

/-- V-R4: both edges, reset after increment. -/
theorem test_rizm_both_edges : (after [.proc 0x03, .proc 0x0F] State.reset).rizm.step = 0 := by decide
/-- V-R5: saturation at the top. -/
theorem test_rizm_saturates :
    answer [.cpypar [0xFFFF, 0xFFFF, 0, 0xFFFF], .proc 0x00] State.reset = some 32767 := by decide
/-- V-PW1: preview of -5 over -8192, scaled by a shift that rounds down. -/
theorem test_pal_w_preview :
    answer [.cpypar [0x3000, 0x6000], .proc 0x0C, .setpar 1 0x7FFB, .proc 0x00] (sel (.pal .w)) = some (-4) := by decide
/-- V-PA2: an advance that returns to the same step in one window does not accumulate again. -/
theorem test_pal_a_window :
    answer [.cpypar [0, 0xCE20, 0x8000, 0], .proc 0x04, .proc 0x07] (sel (.pal .a)) = some 12500 := by decide
/-- V-PC2: a step left unreinforced decays. -/
theorem test_pal_c_decays :
    answer [.cpypar [0, 0x4000, 0x2000], .proc 0x04, .proc 0x03, .proc 0x03] (sel (.pal .c)) = some 2560 := by decide
/-- V-BB1: gate 2 selects the frame, then gate 1 advances inside it. -/
theorem test_bm_b_frame :
    answer [.cpypar [0x9000, 0xA000, 0xB000, 0xC000], .proc 0x08, .proc 0x08, .proc 0x0B] (sel (.bm .b)) =
      some 3875 := by decide
/-- V-BA4: the advance does not land on a sentinel. -/
theorem test_bm_sentinel :
    answer [.cpypar [0x9000, 0x0000], .proc 0x03] (sel (.bm .a)) = some 1217 := by decide
/-- V-BC2: negation saturates. -/
theorem test_bm_satneg : answer [.setpar 0 0, .proc 0x0C] (sel (.bm .c)) = some 20480 := by decide
/-- V-BC1: the second edge returns to base polarity and advances. -/
theorem test_bm_flip_advances :
    answer [.cpypar [0x9000, 0xA000], .proc 0x0C, .proc 0x0C] (sel (.bm .c)) = some 3875 := by decide
/-- V-Q1. -/
theorem test_qnt : answer [.qnt 0xD8F0] State.reset = some (-3875) := by decide
theorem test_qnt_extreme : answer [.qnt 0x8000] State.reset = some (-20480) := by decide
/-- V-L1, V-BB1. -/
theorem test_ledf : answer [.proc 0x08, .ledf] (sel (.bm .b)) = some 170 ∧ answer [.ledf] State.reset = some 0 := by
  decide
theorem test_ledn : answer [.setpar 0 0, .proc 0x00, .ledn] (sel (.bm .a)) = some 48 := by decide
/-- R252 (a): an unbuffered function. -/
theorem test_buf_unbuffered : answer [.buf] State.reset = some 0 := by decide
/-- V-X2, V-X3 in small: PROC queues the byte and answers 0 while no block was computed. -/
theorem test_proc_buffered :
    (after [.proc 0xA1, .proc 0x02] (withExt 0 .buffered)).inq = [0xA1, 0x02] ∧
      answer [.proc 0xA1] (withExt 0 .buffered) = some 0 := by decide
/-- R252: without room BUF takes nothing. -/
theorem test_buf_without_room :
    after [.buf] { withExt 0 .buffered with inq := [9], outq := [1, 2, 3, 4, 5] } =
      { withExt 0 .buffered with inq := [9], outq := [1, 2, 3, 4, 5], rsp := some ⟨0, false⟩ } := by decide
/-- R252: with exactly `K_BLOCK` places it fills. -/
theorem test_buf_fills :
    answer [.buf] { withExt 7 .buffered with inq := [9], outq := [1, 2, 3, 4] } = some 1 := by decide

/-! ## Witnesses: hypotheses of the statements that can be met together -/

theorem witness_decode_of_encoded : (Instr.cpypar []).wf = true ∧ (Instr.cpypar [1, 2, 3, 4]).wf = true := by decide
theorem witness_decoded_words : decode [0x50010000, 0x0000FFFF, 0xFFFFFFFF] = .ok (.cpypar [0xFFFF]) := by decide
theorem witness_step_runs :
    ({ State.reset with port := [.word 0x50010000, .word 5, .rst] } : State).port =
        .word 0x50010000 :: (([5] : List Word).map .word ++ [.rst]) ∧
      ([5] : List Word).length = dataCount 0x50010000 ∧ decode [0x50010000, 5] = .ok (.cpypar [5]) := by decide
/-- First clause: no row; sizes 5 and 7. -/
theorem witness_refused_one_word :
    (∀ r ∈ rows, (0xC0000000 : Word) &&& r.mask ≠ r.pattern) ∧
      ((0x50050000 : Word) &&& 0xFFF8FFFF = 0x50000000 ∧ 4 < ((0x50050000 : Word).extractLsb' 16 3).toNat) ∧
      ((0x50070000 : Word) &&& 0xFFF8FFFF = 0x50000000 ∧ 4 < ((0x50070000 : Word).extractLsb' 16 3).toNat) := by
  decide
/-- Second clause: sizes 1 and 4. -/
theorem witness_refused_data :
    ((0x50010000 : Word) &&& 0xFFF8FFFF = 0x50000000 ∧
        ([0x00010000] : List Word).length = ((0x50010000 : Word).extractLsb' 16 3).toNat ∧
        ∃ d ∈ ([0x00010000] : List Word), d.extractLsb' 16 16 ≠ 0) ∧
      ((0x50040000 : Word) &&& 0xFFF8FFFF = 0x50000000 ∧
        ([0, 0, 0, 0x80000000] : List Word).length = ((0x50040000 : Word).extractLsb' 16 3).toNat ∧
        ∃ d ∈ ([0, 0, 0, 0x80000000] : List Word), d.extractLsb' 16 16 ≠ 0) :=
  ⟨⟨by decide, by decide, 0x00010000, by simp, by decide⟩, by decide, by decide, 0x80000000, by simp, by decide⟩
/-- Third clause: the first and the last slot. -/
theorem witness_refused_slot :
    mkWord 0x2 (BitVec.ofNat 8 (8 + (7 : Fin 8).val)) 0 = 0x200F0000 ∧ State.reset.exts[(0 : Fin 8).val] = none ∧
      State.reset.exts[(7 : Fin 8).val] = none := by decide
theorem witness_reset_input : ({ State.reset with port := [.rst, .word 0] } : State).port = .rst :: [.word 0] := by
  decide
/-- The reset input inside a CPYPAR: after the header of one value, and one word short of four values. -/
theorem witness_reset_inside_cpypar :
    ({ State.reset with port := [.word 0x50010000, .rst] } : State).port =
        (.word (mkWord 0x5 (BitVec.ofNat 8 1) 0) :: ([] : List Word).map .word) ++ .rst :: [] ∧
      ({ State.reset with port := [.word 0x50040000, .word 1, .word 2, .word 3, .rst, .word 9] } : State).port =
        (.word (mkWord 0x5 (BitVec.ofNat 8 4) 0) :: ([1, 2, 3] : List Word).map .word) ++ .rst :: [.word 9] := by
  decide
theorem witness_idle_port :
    State.reset.port = [] ∧
      ({ State.reset with port := [.word 0x50040000, .word 1, .word 2, .word 3] } : State).port =
        .word (mkWord 0x5 (BitVec.ofNat 8 4) 0) :: ([1, 2, 3] : List Word).map .word := by decide
/-- The invariant holds with every kind of function active. -/
theorem witness_inv_rizm : State.reset.BaseInv ∧ State.reset.func = .rizm :=
  ⟨⟨by decide, by decide, by decide, by decide, by decide, by decide, by decide, by decide, by decide⟩, rfl⟩
theorem witness_inv_pal :
    (sel (.pal .c)).BaseInv ∧ (sel (.pal .c)).func = .pal .c ∧ (sel (.pal .c)).pal.InvFor .c :=
  ⟨⟨by decide, by decide, by decide, by decide, by decide, by decide, by decide, by decide, by decide⟩, rfl, by decide⟩
theorem witness_inv_bm :
    (sel (.bm .b)).BaseInv ∧ (sel (.bm .b)).func = .bm .b ∧ (sel (.bm .b)).bm.InvFor .b :=
  ⟨⟨by decide, by decide, by decide, by decide, by decide, by decide, by decide, by decide, by decide⟩, rfl, by decide⟩
/-- The whole invariant, in a state with a PAL variant active and a command on the port. -/
theorem witness_inv :
    State.Inv { sel (.pal .a) with port := [.word 0x60070000] } ∧
      step { sel (.pal .a) with port := [.word 0x60070000] } =
        .next (nextOr State.reset (step { sel (.pal .a) with port := [.word 0x60070000] })) :=
  ⟨⟨⟨by decide, by decide, by decide, by decide, by decide, by decide, by decide, by decide, by decide⟩,
    by decide, by decide, by decide, by decide, by decide, by decide, by decide⟩, rfl⟩
theorem witness_selectable :
    State.reset.selectable State.reset.func = true ∧
      (withExt 7 .buffered).selectable (withExt 7 .buffered).func = true := by decide
theorem witness_setfn_selectable : (∀ k, Fn.ext 7 = .ext k → ((withExt 7 .unbuffered).exts[k.val]).isSome = true) ∧
    (withExt 7 .unbuffered).exts[(7 : Fin 8).val] = some ⟨.unbuffered, 7⟩ := by decide
theorem witness_setfn_erases_history :
    let s := after [.proc 0x0C, .setpar 0 0] (sel (.bm .a))
    let t := { sel (.pal .a) with p := s.p }
    s.p = t.p ∧ s.mode = t.mode ∧ s.chan = t.chan ∧ s.params = t.params ∧ s.port = t.port ∧ s.SameSlots t ∧
      s.selectable (.bm .a) = true ∧ s.bm ≠ t.bm := by decide
theorem witness_configured :
    (sel (.bm .d)).Configured ∧ step { sel (.bm .d) with port := [.word 0x600F0000] } =
      .next (nextOr State.reset (step { sel (.bm .d) with port := [.word 0x600F0000] })) := ⟨fun _ => rfl, rfl⟩
theorem witness_effective_vector :
    HalfTable.reference.rizm.e2 = .fix 0x8000 ∧ HalfTable.reference.rizm.e3 = .fix 0xC000 ∧
      HalfTable.reference.bmA.e2 = .mir 0 ∧ HalfTable.reference.bmA.e3 = .mir 1 := by decide
theorem witness_active_function :
    State.reset.func = .rizm ∧ (sel (.pal .w)).func = .pal .w ∧ (sel (.pal .a)).func = .pal .a ∧
      (sel (.bm .a)).func = .bm .a ∧ (sel (.bm .c)).func = .bm .c := by decide
theorem witness_collaborator :
    (withExt 0 .unbuffered).func = .ext 0 ∧ (withExt 0 .unbuffered).exts[(0 : Fin 8).val] = some ⟨.unbuffered, 7⟩ ∧
      (withExt 7 .buffered).func = .ext 7 ∧ (withExt 7 .buffered).exts[(7 : Fin 8).val] = some ⟨.buffered, 7⟩ ∧
      (withExt 7 .buffered).inq.length ≤ (withExt 7 .buffered).params.rbCap := by decide
theorem witness_cpypar_completes :
    (Instr.cpypar [1, 2, 3, 4]).wf = true ∧ (sel (.bm .b)).selectable (sel (.bm .b)).func = true := by decide
theorem witness_configure_keeps :
    exec (.setpar 0 0) (sel (.bm .a)) = .next (after [.setpar 0 0] (sel (.bm .a))) ∧
      (after [.setpar 0 0] (sel (.bm .a))).rsp = some ⟨0, false⟩ := ⟨rfl, by decide⟩
theorem witness_half_mode :
    (after [.setmode .half] (sel (.bm .d))).mode = .half ∧
      ∀ k, (after [.setmode .half] (sel (.bm .d))).func ≠ .ext k := by decide
theorem witness_half_defaults :
    let s := after [.setmode .half] (sel (.bm .d))
    let t := after [.setmode .half] (sel (.pal .a))
    s.mode = .half ∧ s.params.half = HalfTable.reference ∧ s.func = .bm .d ∧ BmVariant.c ≠ .d ∧ t.mode = .half ∧
      t.params.half = HalfTable.reference ∧ t.func = .pal .a := by decide
/-- A sequence that writes a register twice, and one that does not. -/
theorem witness_setpar_sequence :
    ([(3, 5), (3, 6)] : List (Fin 4 × Half16)) ≠ [] ∧
      [PortEvent.word 0x40030005, .word 0x40030006, .rst] =
        ([(3, 5), (3, 6)] : List (Fin 4 × Half16)).map
            (fun w => PortEvent.word (mkWord 0x4 (BitVec.ofNat 8 w.1.val) w.2)) ++ [.rst] ∧
      (([(3, 5), (0, 6)] : List (Fin 4 × Half16)).map Prod.fst).Nodup := by decide
theorem witness_boot_order : State.reset.selectable State.reset.func = true ∧ ∀ k, Fn.bm .b ≠ .ext k := by decide
theorem witness_proc_pal : (sel (.pal .c)).func = .pal .c ∧ (sel (.pal .c)).pal.Inv := by decide
theorem witness_proc_bm_frame :
    let s := after [.proc 0x08, .proc 0x08] (sel (.bm .b))
    s.func = .bm .b ∧ s.bm.Inv ∧ s.bm.InvFor .b ∧ s.bm.frame = 2 := ⟨rfl, by decide, by decide, rfl⟩
theorem witness_proc_bm_flip : (sel (.bm .d)).func = .bm .d ∧ (sel (.bm .d)).bm.Inv := by decide
theorem witness_reserved_control_bits :
    (∀ k, State.reset.func ≠ .ext k) ∧ (0x03 : Byte).extractLsb' 0 4 = (0xF3 : Byte).extractLsb' 0 4 := by decide
theorem witness_params : State.reset.params.Wf := by decide
/-- The bounds on the capacities and the ratio: the sizes after reset, and the least that R6 and log entry 10 allow. -/
theorem witness_capacities :
    12 ≤ State.reset.params.bmArrayCap ∧ 12 ≤ (sel (.bm .b)).bm.val.length ∧ State.reset.params.palScale = 40960 ∧
      Params.Wf { Params.reference with palCap := 16, bmArrayCap := 12 } := by decide
/-- The two clauses on the scaled output: another ratio whose result is an `int16`, at its boundary. -/
theorem witness_other_ratio :
    let p := { Params.reference with palScale := 65536 }
    p.Wf ∧ p.palScale ≠ 40960 ∧ -32768 ≤ -32768 * p.palScale / 65536 ∧ 32767 * p.palScale / 65536 ≤ 32767 := by decide
theorem witness_second_tick_of_a_stay :
    (sel (.pal .a)).func = .pal .a ∧ PalVariant.a ≠ .w ∧ (0x07 : Byte).getLsbD 2 = true ∧
      (0x04 : Byte).getLsbD 2 = true ∧ (0x04 : Byte).getLsbD 1 = false := by decide
/-- Two active steps and one: the clauses of a window; the bytes of a tick that advances, stays, and releases. -/
theorem witness_window :
    (after [.setpar 0 0x1000] (sel (.pal .c))).func = .pal .c ∧ (after [.setpar 0 0x1000] (sel (.pal .c))).pal.Inv ∧
      2 ≤ (after [.setpar 0 0x1000] (sel (.pal .c))).pal.count.toNat ∧
      (after [.setpar 0 0] (sel (.pal .c))).pal.count = 1 ∧ (after [.setpar 0 0] (sel (.pal .c))).pal.Inv ∧
      PalVariant.c ≠ .w ∧ (0x07 : Byte).getLsbD 2 = true ∧ (0x07 : Byte).getLsbD 1 = true ∧
      (0x04 : Byte).getLsbD 2 = true ∧ (0x04 : Byte).getLsbD 1 = false ∧ (0x01 : Byte).getLsbD 1 = false ∧
      (0x01 : Byte).getLsbD 2 = false := by decide
theorem witness_lap :
    let s := { after [.setpar 0 0x1000] (sel (.pal .a)) with
      port := [.word 0x60040000, .word 0x60070000, .word 0x60070000] }
    s.pal.Inv ∧ 2 ≤ s.pal.count.toNat ∧ s.pal.idx.toNat < s.pal.count.toNat ∧ s.pal.lastW = 0 ∧
      s.port = .word (mkWord 0x6 0x04 0) :: (List.replicate s.pal.count.toNat (.word (mkWord 0x6 0x07 0)) ++ []) := by
  decide
theorem witness_pal_edges :
    let s := { sel (.pal .w) with
      port := ([0x03, 0x0C] : List Byte).map (fun c => PortEvent.word (mkWord 0x6 c 0)) ++ [PortEvent.rst] }
    s.func = .pal .w ∧ s.pal.Inv ∧ s.pal.idx = 0 ∧ s.port = [.word 0x60030000, .word 0x600C0000, .rst] := by decide
theorem witness_pal_pass :
    let s := { after [.setpar 0 0x1000] (sel (.pal .a)) with port := List.replicate 4 (.word (mkWord 0x6 0x03 0)) }
    s.func = .pal .a ∧ s.pal.Inv ∧ s.pal.idx.toNat < s.pal.count.toNat ∧ (0x03 : Byte).getLsbD 1 = true ∧
      (0x03 : Byte).getLsbD 2 = false ∧
      s.port = List.replicate (2 * s.pal.count.toNat) (.word (mkWord 0x6 0x03 0)) ++ [] := by decide
/-- The two advances: a gate-1 edge; the second gate-2 edge with no gate-1 edge. -/
theorem witness_advance :
    (sel (.bm .b)).func = .bm .b ∧ (0x0B : Byte).getLsbD 1 = true ∧ (after [.proc 0x0C] (sel (.bm .c))).func = .bm .c ∧
      (after [.proc 0x0C] (sel (.bm .c))).bm.flip = true ∧ (0x0C : Byte).getLsbD 3 = true ∧
      (0x0C : Byte).getLsbD 1 = false := by decide
theorem witness_queue : ([1, 2] : List Byte).length ≤ 2 ∧ ([] : List Byte).length ≤ 2 ∧ 0 < 2 := by decide
/-- The three clauses of BUF at their boundary: room for exactly one block; one place too few; no buffered function. -/
theorem witness_buf :
    let s := { withExt 0 .buffered with outq := [1, 2, 3, 4] }
    let t := { withExt 0 .buffered with outq := [1, 2, 3, 4, 5] }
    s.outq.length + s.params.kBlock ≤ s.params.rbCap ∧ s.outq.length ≤ s.params.rbCap ∧
      t.params.rbCap < t.outq.length + t.params.kBlock ∧ t.outq.length ≤ t.params.rbCap ∧
      (∀ k, State.reset.func ≠ .ext k) ∧ (withExt 3 .unbuffered).exts[(3 : Fin 8).val] = some ⟨.unbuffered, 7⟩ := by
  decide
theorem witness_cadence :
    let s := { withExt 0 .buffered with
      outq := [1, 2, 3, 4]
      port := ([1, 2, 3, 4] : List Byte).map (fun c => PortEvent.word (mkWord 0x6 c 0)) ++
        PortEvent.word 0x70000000 :: [] }
    s.params.Wf ∧ s.func = .ext 0 ∧ s.exts[(0 : Fin 8).val] = some ⟨.buffered, 7⟩ ∧
      ([1, 2, 3, 4] : List Byte).length = s.params.kBlock ∧ s.inq = [] ∧ s.outq.length ≤ s.params.kBlock := by decide
/-- The clauses of the Quantizer's symmetry: -32767 and 32767, and the twelfth bucket. -/
theorem witness_quantizer :
    (0x8001 : Half16).toInt ≠ -32768 ∧ (0x7FFF : Half16).toInt ≠ -32768 ∧
      12 * Params.reference.qBucket ≤ (0x7620 : Half16).toInt.natAbs ∧
      (0x761F : Half16).toInt.natAbs ≤ (0x7620 : Half16).toInt.natAbs := by decide
theorem witness_led :
    (after [.proc 0x08, .proc 0x08] (sel (.bm .b))).bm.frame.toNat < bmFrames .b ∧
      ∀ v, State.reset.func ≠ .bm v := ⟨by decide, by intro v; exact Fn.noConfusion⟩
/-- Two states that agree and differ in a function that is not active. -/
theorem witness_agree :
    State.Agree State.reset { State.reset with pal := { Pal.reset Params.reference with idx := 3 } } ∧
      State.reset ≠ { State.reset with pal := { Pal.reset Params.reference with idx := 3 } } :=
  ⟨⟨rfl, rfl, rfl, rfl, rfl, rfl, rfl, rfl, rfl, fun _ => rfl, rfl⟩, by decide⟩
theorem witness_corrupt_function :
    ({ State.reset with func := .ext 0 } : State).func = .ext 0 ∧ State.reset.exts[(0 : Fin 8).val] = none ∧
      exec .cfg { State.reset with func := .ext 0 } = .refused .corruptFunction ∧
      State.selectable { State.reset with func := .ext 0 } (.bm .a) = true := ⟨rfl, by decide, rfl, by decide⟩
/-- R266 (d): a BM knob moved away and back latches the frame that has come up meanwhile; one CPYPAR does not. -/
theorem test_bm_knob_moved_away_and_back :
    let s := after [.setpar 0 0x9000, .proc 0x0C] (sel (.bm .a))
    readStep (after [.setpar 0 0xA000, .setpar 0 0x9000] s).bm.val 4 = 4096 ∧
      readStep (after [.cpypar [0x9000, 0x8000, 0x8000, 0x8000]] s).bm.val 4 = 0 := by decide
/-- R163: a window that laps a sequence of two steps accumulates its first step a second time. -/
theorem test_pal_a_lap :
    readStep (after [.cpypar [0x1000, 0x8005], .proc 0x04, .proc 0x07, .proc 0x07] (sel (.pal .a))).pal.val 0 = 10 := by
  decide
/-- R6: the parameter values that the spec decides, and the reference `Q_FSV`. -/
theorem test_reset_parameters :
    State.reset.params.palCap = 16 ∧ State.reset.params.palScale = 40960 ∧ State.reset.params.bmArrayCap = 16 ∧
      State.reset.params.qFsv = 20480 ∧ State.reset.params.qBucket = 2520 ∧ State.reset.params.bmSentinel.toInt = -32256 ∧
      State.reset.params.kBlock = 4 ∧ State.reset.params.rbCap = 8 := by decide
/-- R176 with other ratios, by hand: -3 * 32768 / 65536 rounds to -2; a ratio of 2 saturates (log entry 10). -/
theorem test_other_ratios :
    (scaleOut 32768 (-3)).toInt = -2 ∧ (scaleOut 131072 30000).toInt = 32767 ∧
      (scaleOut 131072 (-30000)).toInt = -32768 := by decide
/-- R151, R155: INIT clears every element of a larger step array. -/
theorem test_larger_step_array :
    (after [.init 0] (State.resetWith { Params.reference with palCap := 18 })).pal.val.length = 18 := by decide

end Sys2Proof.Machine
end

/-! Proofs about the command port: the fetch and the decoder read the same words (30_encoding.md rule R91). -/

namespace Sys2Proof.Machine

/-- On exactly the words of one command, the decoder of word lists is the decoder of that command. -/
theorem decode_cons_of_length_eq {w : Word} {ds : List Word} (hlen : ds.length = dataCount w) :
    decode (w :: ds) = decodeCommand w ds := by
  simp [decode, ← hlen]

/-- A whole command at the head of the port is fetched, and exactly its words are taken (R80, R91). -/
theorem fetch_of_decode_ok {w : Word} {ds : List Word} {i : Instr} (rest : List PortEvent)
    (hlen : ds.length = dataCount w) (hdecode : decode (w :: ds) = .ok i) :
    fetch (.word w :: (ds.map .word ++ rest)) = .command i rest := by
  have htake : takeWords (dataCount w) (ds.map .word ++ rest) = .got ds rest := hlen ▸ takeWords_append ds rest
  have hcommand : decodeCommand w ds = .ok i := decode_cons_of_length_eq hlen ▸ hdecode
  simp only [fetch, htake, hcommand]

/-- What a step does once a command has been fetched (R12, R73). -/
theorem step_of_fetch_command {s : State} {i : Instr} {rest : List PortEvent}
    (hfetch : fetch s.port = .command i rest) : step s = exec i { s with port := rest } := by
  simp only [step, hfetch]

/-- Settles O4: the fetch takes exactly the words that the decoder reads. -/
theorem stepRunsDecodedCommand : Obligations.StepRunsDecodedCommand := by
  intro s w ds rest i hport hlen hdecode
  have hfetch : fetch s.port = .command i rest := hport ▸ fetch_of_decode_ok rest hlen hdecode
  exact step_of_fetch_command hfetch

end Sys2Proof.Machine

/-! What the four kinds of step are, and how PROC and BUF dispatch: one equation for each case (30_encoding.md rule R91;
44_processor_engine.md rules R246 to R252). -/

namespace Sys2Proof.Machine

/-! The step by what is fetched; `step_of_fetch_command` is the fourth case. -/

theorem step_of_fetch_idle {s : State} (hfetch : fetch s.port = .idle) : step s = .next { s with rsp := none } := by
  simp only [step, hfetch]

theorem step_of_fetch_reset {s : State} {rest : List PortEvent} (hfetch : fetch s.port = .reset rest) :
    step s = .next { s.hardReset with port := rest } := by
  simp only [step, hfetch]

theorem step_of_fetch_refused {s : State} {r : Reject} {rest : List PortEvent}
    (hfetch : fetch s.port = .refused r rest) : step s = .next ({ s with port := rest }).refuseWord := by
  simp only [step, hfetch]

/-! PROC by the active function. -/

theorem execProc_rizm {s : State} (c : Byte) (hf : s.func = .rizm) :
    execProc c s = .next (({ s with rizm := (rizmProcess s.params c s.rizm).1 } : State).respond
      (rizmProcess s.params c s.rizm).2) := by
  simp only [execProc, hf]

theorem execProc_pal {s : State} {v : PalVariant} (c : Byte) (hf : s.func = .pal v) :
    execProc c s = .next (({ s with pal := (palProcess s.params v c s.pal).1 } : State).respond
      (palProcess s.params v c s.pal).2) := by
  simp only [execProc, hf]

theorem execProc_bm {s : State} {v : BmVariant} (c : Byte) (hf : s.func = .bm v) :
    execProc c s = .next (({ s with bm := (bmProcess s.params v c s.bm).1 } : State).respond
      (bmProcess s.params v c s.bm).2) := by
  simp only [execProc, hf]

theorem execProc_absent {s : State} {k : Fin 8} (c : Byte) (hf : s.func = .ext k) (he : s.exts[k.val] = none) :
    execProc c s = .refused .corruptFunction := by
  simp only [execProc, hf, he]

theorem execProc_unbuffered {s : State} {k : Fin 8} {st : Nat} (c : Byte) (hf : s.func = .ext k)
    (he : s.exts[k.val] = some ⟨.unbuffered, st⟩) :
    execProc c s =
      .next (({ s with exts := updateExt s.exts k fun st => Config.extProcessState k st c } : State).respond
        (Config.extProcessSample k st c)) := by
  simp only [execProc, hf, he]

theorem execProc_buffered {s : State} {k : Fin 8} {st : Nat} (c : Byte) (hf : s.func = .ext k)
    (he : s.exts[k.val] = some ⟨.buffered, st⟩) : execProc c s = .next (procBuffered c s) := by
  simp only [execProc, hf, he]

/-! BUF by the active function. -/

theorem execBuf_inScope {s : State} (hf : ∀ k, s.func ≠ .ext k) : execBuf s = .next (s.respond 0) := by
  unfold execBuf
  split
  next k hk => exact absurd hk (hf k)
  next => rfl

theorem execBuf_absent {s : State} {k : Fin 8} (hf : s.func = .ext k) (he : s.exts[k.val] = none) :
    execBuf s = .refused .corruptFunction := by
  simp only [execBuf, hf, he]

theorem execBuf_unbuffered {s : State} {k : Fin 8} {st : Nat} (hf : s.func = .ext k)
    (he : s.exts[k.val] = some ⟨.unbuffered, st⟩) : execBuf s = .next (s.respond 0) := by
  simp only [execBuf, hf, he]

theorem execBuf_buffered {s : State} {k : Fin 8} {st : Nat} (hf : s.func = .ext k)
    (he : s.exts[k.val] = some ⟨.buffered, st⟩) :
    execBuf s = .next (if s.params.kBlock ≤ writable s.params.rbCap s.outq then
      (fillBlock k ⟨.buffered, st⟩ s).respond 1 else s.respond 0) := by
  simp only [execBuf, hf, he]
  split <;> rfl

/-! Collaborator slots: no operation changes which are present, or their styles (R262). -/

theorem sameSlots_updateExt (s : State) (k : Fin 8) (f : Nat → Nat) :
    ({ s with exts := updateExt s.exts k f } : State).SameSlots s :=
  style_updateExt s.exts k f

theorem sameSlots_initExts (s : State) (c : Byte) : ({ s with exts := initExts c s.exts } : State).SameSlots s := by
  intro k
  simp [getElem_initExts, Function.comp_def]

/-- Which functions can be selected depends on the slots alone (R286). -/
theorem selectable_congr {s t : State} (h : s.SameSlots t) (f : Fn) : s.selectable f = t.selectable f := by
  cases f with
  | ext k => simpa [State.selectable] using congrArg Option.isSome (h k)
  | _ => rfl

end Sys2Proof.Machine

/-! What init, Configure and a tick keep of each family's ranges (10_state.md rules R29 to R31; R192, R206). -/

namespace Sys2Proof.Machine

/-! PatternGenerator (R29). -/

theorem rizmSelect_le (e : Half16) : (rizmSelect e).toNat ≤ 24 := by
  have hmin : min 24 (e.toNat * 25 / 65536) ≤ 24 := Nat.min_le_left _ _
  exact (Nat.mod_le _ _).trans hmin

theorem rizmConfigure_inv (e : Knobs) (r : Rizm) : (rizmConfigure e r).Inv :=
  ⟨rizmSelect_le e[0], rizmSelect_le e[1]⟩

/-! AccentSequencer (R30). -/

theorem Pal.reset_inv {p : Params} (hp : p.Wf) : (Pal.reset p).Inv := by
  obtain ⟨-, -, -, -, -, -, hcap, -⟩ := hp
  exact ⟨by simp [Pal.reset], by simp [Pal.reset], fun _ => rfl, by simpa [Pal.reset] using hcap⟩

theorem Pal.reset_invFor (p : Params) (v : PalVariant) : (Pal.reset p).InvFor v :=
  ⟨fun _ => rfl, fun _ => rfl, fun _ j _ => le_of_eq (congrArg BitVec.toInt (readStep_replicate p.palCap j)).symm⟩

/-- Configure gives a count of 1 to 16 and leaves the other registers of the invariant alone (R156). -/
theorem palConfigure_inv (e : Knobs) {q : Pal} (h : q.Inv) : (palConfigure e q).Inv := by
  obtain ⟨-, -, hlast, hlen⟩ := h
  have hcount : (palConfigure e q).count.toNat = 1 + e[0].toNat / 4096 := by
    simp only [palConfigure, BitVec.toNat_ofNat]
    omega
  exact ⟨by omega, by omega, hlast, hlen⟩

/-- What a tick of variant `v` keeps. -/
abbrev Pal.Valid (v : PalVariant) (q : Pal) : Prop := q.Inv ∧ q.InvFor v

/-- A step may take any value in variant W, and any value that is not negative in variants A and C. -/
theorem palSet_valid {v : PalVariant} {q : Pal} (i : BitVec 4) {x : Half16} (hx : v ≠ .w → 0 ≤ x.toInt)
    (h : q.Valid v) : (palSet q i x).Valid v := by
  obtain ⟨⟨hlo, hhi, hlast, hlen⟩, hnone, hheld, hval⟩ := h
  refine ⟨⟨hlo, hhi, hlast, by simpa using hlen⟩, hnone, hheld, fun hv j hj => ?_⟩
  have hi : i.toNat < q.val.length := by omega
  rw [length_palSet] at hj
  simp only [palSet, readStep_writeStep _ _ _ _ hi]
  split
  · exact hx hv
  · exact hval hv j hj

/-- A step value floored at 0 is not negative. -/
theorem int16_clip0_nonneg (x : Int) : 0 ≤ (int16 (clip0 x)).toInt := by
  have := clip0_bounds x
  rw [int16_toInt (by omega)]
  omega

theorem palRevalidate_valid {v : PalVariant} {q : Pal} (h : q.Valid v) : (palRevalidate q).Valid v := by
  unfold palRevalidate
  split <;> exact h

/-- The decay of variant C on the step that is left keeps the invariant (R166). -/
theorem palDecay_valid {v : PalVariant} {q : Pal} (h : q.Valid v) :
    (if q.held then q else palSet q q.idx (int16 (clip0 (palAt q q.idx - q.decompose.toNat)))).Valid v := by
  split
  · exact h
  · exact palSet_valid _ (fun _ => int16_clip0_nonneg _) h

theorem palAdvance_valid {v : PalVariant} (c : Byte) {q : Pal} (h : q.Valid v) : (palAdvance v c q).Valid v := by
  unfold palAdvance
  split
  · cases v with
    | w => exact h
    | a => exact h
    | c =>
      obtain ⟨hinv, hnone, -, hval⟩ := palDecay_valid h
      exact ⟨hinv, hnone, fun _ => rfl, hval⟩
  · exact h

/-- `VALID(i)` has its valid bit set (R158). -/
theorem lastValid_valid (i : BitVec 4) : (lastValid i).getLsbD 4 = true := by
  revert i
  decide

theorem palAccumulate_valid {v : PalVariant} (hv : v ≠ .w) (d : Int) {q : Pal} (h : q.Valid v) :
    (palAccumulate d q).Valid v := by
  unfold palAccumulate
  split
  · obtain ⟨⟨hlo, hhi, -, hlen⟩, -, hheld, hval⟩ :=
      palSet_valid q.idx (fun _ => int16_clip0_nonneg (palAt q q.idx + d)) h
    have hbit : (lastValid q.idx).getLsbD 4 = false → lastValid q.idx = 0 := by simp [lastValid_valid]
    exact ⟨⟨hlo, hhi, hbit, hlen⟩, fun hw => absurd hw hv, hheld, hval⟩
  · exact h

/-- Closing the gate-2 window. -/
theorem palRelease_valid {v : PalVariant} {q : Pal} (h : q.Valid v) :
    ({ q with lastW := lastNone } : Pal).Valid v := by
  obtain ⟨⟨hlo, hhi, -, hlen⟩, -, hheld, hval⟩ := h
  exact ⟨⟨hlo, hhi, fun _ => rfl, hlen⟩, fun _ => rfl, hheld, hval⟩

theorem palGate2_valid {v : PalVariant} (c : Byte) {q : Pal} (h : q.Valid v) : (palGate2 v c q).Valid v := by
  cases v with
  | w =>
    simp only [palGate2]
    split
    · exact palSet_valid q.idx (fun hw => absurd rfl hw) h
    · exact h
  | a =>
    simp only [palGate2]
    split
    · exact palAccumulate_valid (by decide) _ h
    · exact palRelease_valid h
  | c =>
    simp only [palGate2]
    split
    · obtain ⟨hinv, hnone, -, hval⟩ := h
      have hheld : ({ q with held := true } : Pal).Valid .c := ⟨hinv, hnone, fun hc => absurd rfl hc, hval⟩
      exact palAccumulate_valid (by decide) _ hheld
    · exact palRelease_valid h

/-- A tick of a PAL variant keeps its invariant. -/
theorem palProcess_valid {v : PalVariant} (p : Params) (c : Byte) {q : Pal} (h : q.Valid v) :
    (palProcess p v c q).1.Valid v :=
  palGate2_valid c (palAdvance_valid c (palRevalidate_valid h))

/-! ChromaticStepSequencer (R31, R192, R206). -/

/-- The part of `Bm.InvFor` that does not speak of the count. Init gives it for every variant, and the count of the
variant comes with the Configure that follows. -/
abbrev Bm.Placed (v : BmVariant) (b : Bm) : Prop :=
  b.frame.toNat < bmFrames v ∧ (∀ j < b.val.length, bmCap v ≤ j → readStep b.val j = 0) ∧
    (v = .b → b.idx.toNat ≤ 3) ∧ (bmRole v = .frame → b.flip = false) ∧
    (bmRole v = .flip → b.frame.toNat = b.idx.toNat / 4)

/-- The counts a variant fixes (R198). -/
abbrev Bm.FixedCount (v : BmVariant) (b : Bm) : Prop := (v = .a ∨ v = .c → b.count = 8) ∧ (v = .b → b.count = 4)

theorem Bm.invFor_iff {v : BmVariant} {b : Bm} : b.InvFor v ↔ b.Placed v ∧ b.FixedCount v := by
  constructor
  · rintro ⟨hframe, hzero, h8, hb, hflip, hfollow⟩
    exact ⟨⟨hframe, hzero, fun h => (hb h).2, hflip, hfollow⟩, h8, fun h => (hb h).1⟩
  · rintro ⟨⟨hframe, hzero, hidx, hflip, hfollow⟩, h8, h4⟩
    exact ⟨hframe, hzero, h8, fun h => ⟨h4 h, hidx h⟩, hflip, hfollow⟩

theorem bmCap_le (v : BmVariant) : bmCap v ≤ 12 := by cases v <;> decide

theorem bmFrames_le (v : BmVariant) : bmFrames v ≤ 3 := by cases v <;> decide

theorem bmFrames_pos (v : BmVariant) : 0 < bmFrames v := by cases v <;> decide

theorem bmFrames_of_flip {v : BmVariant} (h : bmRole v = .flip) : bmFrames v = 2 := by
  revert h
  cases v <;> decide

theorem Bm.reset_inv {p : Params} (hp : p.Wf) : (Bm.reset p).Inv := by
  obtain ⟨-, -, -, -, -, -, -, hcap⟩ := hp
  exact ⟨by simp [Bm.reset], by simp [Bm.reset], by simp [Bm.reset], by simp [Bm.reset], by simpa [Bm.reset] using hcap⟩

theorem Bm.reset_placed (p : Params) (v : BmVariant) : (Bm.reset p).Placed v :=
  ⟨bmFrames_pos v, fun j _ _ => readStep_replicate p.bmArrayCap j, fun _ => Nat.zero_le 3, fun _ => rfl,
    fun _ => by simp [Bm.reset]⟩

/-- Recording one knob writes below `cap(v)` only (R200). -/
theorem bmLatch_keeps {v : BmVariant} (e : Knobs) {b : Bm} (k : Fin 4) (h : b.Inv ∧ b.Placed v) :
    (bmLatch v e b k).Inv ∧ (bmLatch v e b k).Placed v := by
  obtain ⟨⟨hlo, hhi, hidx, hframe, hlen⟩, hframes, hzero, hplace⟩ := h
  unfold bmLatch
  split
  next =>
    refine ⟨⟨hlo, hhi, hidx, hframe, by split <;> simpa using hlen⟩, hframes, fun j hj hcap => ?_, hplace⟩
    dsimp only at hj ⊢
    split
    next hwrite =>
      have := bmCap_le v
      rw [readStep_writeStep _ _ _ _ (by omega), if_neg (by omega)]
      exact hzero j (by simpa [hwrite] using hj) hcap
    next hwrite => exact hzero j (by simpa [hwrite] using hj) hcap
  next => exact ⟨⟨hlo, hhi, hidx, hframe, hlen⟩, hframes, hzero, hplace⟩

/-- Configure gives a count of 1 to 8, and the count its variant fixes (R198). -/
theorem bmCount_spec (v : BmVariant) (e : Knobs) (b : Bm) :
    1 ≤ (bmCount v e).toNat ∧ (bmCount v e).toNat ≤ 8 ∧ ({ b with count := bmCount v e } : Bm).FixedCount v := by
  cases v with
  | d =>
    have hcount : (bmCount .d e).toNat = 1 + e[3].toNat * 8 / 65536 := by
      simp only [bmCount, BitVec.toNat_ofNat]
      omega
    exact ⟨by omega, by omega, by simp, by simp⟩
  | _ => simp [bmCount, Bm.FixedCount]

/-- Configure of a BM variant establishes its invariant from what init and every command keep. -/
theorem bmConfigure_keeps {v : BmVariant} (e : Knobs) {b : Bm} (hinv : b.Inv) (hplaced : b.Placed v) :
    (bmConfigure v e b).Inv ∧ (bmConfigure v e b).InvFor v := by
  obtain ⟨⟨-, -, hidx, hframe, hlen⟩, hplaced⟩ :
      ((bmSlots v).foldl (bmLatch v e) b).Inv ∧ ((bmSlots v).foldl (bmLatch v e) b).Placed v :=
    List.foldlRecOn (motive := fun b : Bm => b.Inv ∧ b.Placed v) (bmSlots v) (bmLatch v e) ⟨hinv, hplaced⟩
      fun _ h k _ => bmLatch_keeps e k h
  obtain ⟨hlo, hhi, hfixed⟩ := bmCount_spec v e ((bmSlots v).foldl (bmLatch v e) b)
  exact ⟨⟨hlo, hhi, hidx, hframe, hlen⟩, Bm.invFor_iff.mpr ⟨hplaced, hfixed⟩⟩

/-- What holds inside a tick, from the re-validation on: the index is below the count. The frame of a flip variant lags
behind the index until the tick's last micro-step. -/
abbrev Bm.InTick (v : BmVariant) (b : Bm) : Prop :=
  b.idx.toNat < b.count.toNat ∧ b.count.toNat ≤ 8 ∧ b.frame.toNat < bmFrames v ∧ (bmRole v = .frame → b.flip = false)

/-- Advance writes the index alone, and lands below the count (R201, R207). -/
theorem bmAdvance_eq (p : Params) (v : BmVariant) {b : Bm} (hidx : b.idx.toNat < b.count.toNat) :
    ∃ i : BitVec 4, i.toNat < b.count.toNat ∧ bmAdvance p v b = { b with idx := i } := by
  have hzero : (0 : BitVec 4).toNat < b.count.toNat := Nat.zero_lt_of_lt hidx
  have hnext : (if b.count.toNat ≤ b.idx.toNat + 1 then 0 else b.idx + 1 : BitVec 4).toNat < b.count.toNat := by
    split
    · exact hzero
    · exact (Nat.mod_le _ _).trans_lt (by simpa using by omega)
  unfold bmAdvance
  generalize (if b.count.toNat ≤ b.idx.toNat + 1 then 0 else b.idx + 1 : BitVec 4) = i at hnext ⊢
  dsimp only
  split
  · exact ⟨0, hzero, rfl⟩
  · exact ⟨i, hnext, rfl⟩

theorem bmAdvance_inTick (p : Params) {v : BmVariant} {b : Bm} (h : b.InTick v) : (bmAdvance p v b).InTick v := by
  obtain ⟨hidx, hrest⟩ := h
  obtain ⟨i, hi, heq⟩ := bmAdvance_eq p v hidx
  rw [heq]
  exact ⟨hi, hrest⟩

theorem bmRevalidate_inTick {v : BmVariant} {b : Bm} (hinv : b.Inv) (hplaced : b.Placed v) :
    (bmRevalidate b).InTick v := by
  obtain ⟨hlo, hhi, -, -, -⟩ := hinv
  obtain ⟨hframe, -, -, hflip, -⟩ := hplaced
  unfold bmRevalidate
  split
  · exact ⟨hlo, hhi, hframe, hflip⟩
  · exact ⟨by omega, hhi, hframe, hflip⟩

theorem bmGate2_inTick (p : Params) {v : BmVariant} (c : Byte) {b : Bm} (h : b.InTick v) :
    (bmGate2 p v c b).InTick v := by
  unfold bmGate2
  split
  next =>
    obtain ⟨hidx, hhi, hframe, hflip⟩ := h
    cases hrole : bmRole v with
    | frame =>
      refine ⟨hidx, hhi, ?_, fun _ => hflip hrole⟩
      have := bmFrames_le v
      dsimp only
      split
      · exact Nat.zero_lt_of_lt hframe
      · bv_omega
    | flip =>
      have hflipped : ({ b with flip := !b.flip } : Bm).InTick v := ⟨hidx, hhi, hframe, by simp [hrole]⟩
      dsimp only
      split
      · exact hflipped
      · exact bmAdvance_inTick p hflipped
  next => exact h

theorem bmGate1_inTick (p : Params) {v : BmVariant} (c : Byte) {b : Bm} (h : b.InTick v) :
    (bmGate1 p v c b).InTick v := by
  unfold bmGate1
  split
  · exact bmAdvance_inTick p h
  · exact h

/-- The last micro-step of a tick brings the frame of a flip variant to the index: `BM_FRAME = BM_IDX div 4` (R206). -/
theorem bmFollow_keeps {v : BmVariant} {b : Bm} (h : b.InTick v) (hlen : 12 ≤ b.val.length) (hfixed : b.FixedCount v)
    (hzero : ∀ j < b.val.length, bmCap v ≤ j → readStep b.val j = 0) :
    (bmFollow v b).Inv ∧ (bmFollow v b).InvFor v := by
  obtain ⟨hidx, hhi, hframe, hflip⟩ := h
  have hb : v = .b → b.idx.toNat ≤ 3 := by
    intro hv
    rw [hfixed.2 hv] at hidx
    exact Nat.le_of_lt_succ hidx
  have hlo : 1 ≤ b.count.toNat := by omega
  have hidx7 : b.idx.toNat ≤ 7 := by omega
  have hframes := bmFrames_le v
  rw [Bm.invFor_iff]
  unfold bmFollow
  cases hrole : bmRole v with
  | frame =>
    have hframe2 : b.frame.toNat ≤ 2 := by omega
    exact ⟨⟨hlo, hhi, hidx7, hframe2, hlen⟩, ⟨hframe, hzero, hb, fun _ => hflip hrole, by simp [hrole]⟩, hfixed⟩
  | flip =>
    have hfollow : (BitVec.ofNat 2 (b.idx.toNat / 4)).toNat = b.idx.toNat / 4 := by
      rw [BitVec.toNat_ofNat]
      omega
    have hframe' : (BitVec.ofNat 2 (b.idx.toNat / 4)).toNat < bmFrames v := by
      rw [bmFrames_of_flip hrole]
      omega
    have hframe2 : (BitVec.ofNat 2 (b.idx.toNat / 4)).toNat ≤ 2 := by omega
    exact ⟨⟨hlo, hhi, hidx7, hframe2, hlen⟩, ⟨hframe', hzero, hb, by simp [hrole], fun _ => hfollow⟩, hfixed⟩

/-- A tick of a BM variant keeps its invariant: the index is below the count from the re-validation on, and the frame
follows at the end. -/
theorem bmProcess_keeps {v : BmVariant} (p : Params) (c : Byte) {b : Bm} (hinv : b.Inv) (hfor : b.InvFor v) :
    (bmProcess p v c b).1.Inv ∧ (bmProcess p v c b).1.InvFor v := by
  obtain ⟨hplaced, h8, h4⟩ := Bm.invFor_iff.mp hfor
  have htick : (bmGate1 p v c (bmGate2 p v c (bmRevalidate b))).InTick v :=
    bmGate1_inTick p c (bmGate2_inTick p c (bmRevalidate_inTick hinv hplaced))
  obtain ⟨hval, hcount, -⟩ : (bmGate1 p v c (bmGate2 p v c (bmRevalidate b))).SameLatched b :=
    ((bmGate1_latched p v c _).trans (bmGate2_latched p v c _)).trans (bmRevalidate_latched b)
  obtain ⟨-, -, -, -, hlen⟩ := hinv
  obtain ⟨-, hzero, -⟩ := hplaced
  exact bmFollow_keeps htick (hval ▸ hlen) ⟨hcount ▸ h8, hcount ▸ h4⟩ (hval ▸ hzero)

end Sys2Proof.Machine

/-! The invariant of the machine's states: what keeps it, operation by operation, and that every step does (10_state.md
rules R28 to R31; 60_exceptions.md rule R286). -/

namespace Sys2Proof.Machine

/-! The invariant, by the active function. -/

/-- `State.ActiveInv`, with `f` for the active function. -/
def State.InvFor (s : State) : Fn → Prop
  | .pal v => s.pal.InvFor v
  | .bm v => s.bm.InvFor v
  | _ => True

theorem State.inv_iff {s : State} : s.Inv ↔ s.BaseInv ∧ s.InvFor s.func := by
  refine and_congr_right fun _ => ?_
  cases hf : s.func with
  | pal v => cases v <;> simp [State.ActiveInv, State.InvFor, hf]
  | bm v => cases v <;> simp [State.ActiveInv, State.InvFor, hf]
  | _ => simp [State.ActiveInv, State.InvFor, hf]

/-- What a Configure of `f` needs of the registers of `f`: for a BM variant, all of its invariant but the count, which
Configure writes. -/
def State.Ready (s : State) : Fn → Prop
  | .pal v => s.pal.InvFor v
  | .bm v => s.bm.Placed v
  | _ => True

theorem State.InvFor.ready {s : State} {f : Fn} (h : s.InvFor f) : s.Ready f := by
  cases f with
  | pal v => exact h
  | bm v => exact (Bm.invFor_iff.mp h).1
  | _ => trivial

/-! One rule for each part of the state that a command writes. -/

theorem State.BaseInv.setFunc {s : State} (h : s.BaseInv) {f : Fn} (hf : s.selectable f = true) :
    ({ s with func := f } : State).BaseInv := by
  obtain ⟨hp, -, hrest⟩ := h
  exact ⟨hp, hf, hrest⟩

theorem State.BaseInv.setQueues {s : State} (h : s.BaseInv) {inq : List Byte} {outq : List Half16}
    (hin : inq.length ≤ s.params.rbCap) (hout : outq.length ≤ s.params.rbCap) :
    ({ s with inq := inq, outq := outq } : State).BaseInv := by
  obtain ⟨hp, hsel, -, -, hrest⟩ := h
  exact ⟨hp, hsel, hin, hout, hrest⟩

theorem State.BaseInv.flush {s : State} (h : s.BaseInv) : s.flush.BaseInv :=
  h.setQueues (inq := []) (outq := []) (Nat.zero_le _) (Nat.zero_le _)

theorem State.BaseInv.setRizm {s : State} (h : s.BaseInv) {r : Rizm} (hr : r.Inv) :
    ({ s with rizm := r } : State).BaseInv := by
  obtain ⟨hp, hsel, hin, hout, hpal, hbm, -, hrest⟩ := h
  exact ⟨hp, hsel, hin, hout, hpal, hbm, hr, hrest⟩

theorem State.BaseInv.setPal {s : State} (h : s.BaseInv) {q : Pal} (hlen : q.val.length = s.params.palCap)
    (hq : q.Inv) : ({ s with pal := q } : State).BaseInv := by
  obtain ⟨hp, hsel, hin, hout, -, hbm, hr, -, hb⟩ := h
  exact ⟨hp, hsel, hin, hout, hlen, hbm, hr, hq, hb⟩

theorem State.BaseInv.setBm {s : State} (h : s.BaseInv) {b : Bm} (hlen : b.val.length = s.params.bmArrayCap)
    (hb : b.Inv) : ({ s with bm := b } : State).BaseInv := by
  obtain ⟨hp, hsel, hin, hout, hpal, -, hr, hq, -⟩ := h
  exact ⟨hp, hsel, hin, hout, hpal, hlen, hr, hq, hb⟩

theorem State.BaseInv.setExts {s : State} (h : s.BaseInv) {x : Vector (Option ExtInst) 8}
    (hx : ({ s with exts := x } : State).SameSlots s) : ({ s with exts := x } : State).BaseInv := by
  obtain ⟨hp, hsel, hrest⟩ := h
  exact ⟨hp, (selectable_congr hx s.func).trans hsel, hrest⟩

/-! Init and Configure. -/

theorem initFn_baseInv (f : Fn) {s : State} (h : s.BaseInv) : (initFn f s).BaseInv := by
  obtain ⟨hp, -, -, -, -, -, hr, -, -⟩ := id h
  cases f with
  | rizm => exact h.setRizm hr
  | pal v => exact h.setPal List.length_replicate (Pal.reset_inv hp)
  | bm v => exact h.setBm List.length_replicate (Bm.reset_inv hp)
  | ext k => exact h.setExts (sameSlots_updateExt s k _)

theorem initFn_ready (f : Fn) (s : State) : (initFn f s).Ready f := by
  cases f with
  | pal v => exact Pal.reset_invFor s.params v
  | bm v => exact Bm.reset_placed s.params v
  | _ => trivial

theorem configureFn_keeps (f : Fn) {s : State} (h : s.BaseInv) (hready : s.Ready f) :
    (configureFn f s).BaseInv ∧ (configureFn f s).InvFor f := by
  obtain ⟨-, -, -, -, hpal, hbm, -, hq, hb⟩ := id h
  cases f with
  | rizm => exact ⟨h.setRizm (rizmConfigure_inv _ _), trivial⟩
  | pal v => exact ⟨h.setPal hpal (palConfigure_inv _ hq), hready⟩
  | bm v =>
    obtain ⟨hinv, hfor⟩ := bmConfigure_keeps (effective s.mode (HalfTable.bm s.params.half v) s.p) hb hready
    exact ⟨h.setBm ((bmConfigure_length _ _ _).trans hbm) hinv, hfor⟩
  | ext k => exact ⟨h.setExts (sameSlots_updateExt s k _), trivial⟩

/-- Configure establishes the invariant of the active function from what init gives it. -/
theorem configure_inv {s : State} (h : s.BaseInv) (hready : s.Ready s.func) : s.configure.Inv := by
  rw [State.inv_iff, State.configure_func]
  exact configureFn_keeps s.func h hready

/-- Configure keeps the invariant, whatever knobs and mode it is given. -/
theorem State.Inv.configure {s : State} (h : s.Inv) : s.configure.Inv := by
  obtain ⟨hbase, hfor⟩ := State.inv_iff.mp h
  exact configure_inv hbase hfor.ready

/-- INIT, and with it the reset input, establishes the invariant; the registers of the function that was active need not
meet theirs (R232, R300). -/
theorem initAll_inv (index : Byte) {s : State} (h : s.BaseInv) : (s.initAll index).Inv := by
  have hinit : (initFn (.bm .a) (initFn (.pal .w) (initFn .rizm
      { s with chan := index, p := Vector.replicate 4 0x8000, mode := .full }))).BaseInv :=
    initFn_baseInv _ (initFn_baseInv _ (initFn_baseInv _ h))
  have hbase := (hinit.setExts (sameSlots_initExts _ index)).flush
  exact configure_inv (hbase.setFunc (f := .rizm) rfl) trivial

/-! The invariant reads neither the response nor the port. -/

theorem State.Inv.setPort {s : State} (h : s.Inv) (port : List PortEvent) : ({ s with port := port } : State).Inv := h

theorem State.Inv.setRsp {s : State} (h : s.Inv) (rsp : Option Response) : ({ s with rsp := rsp } : State).Inv := h

theorem State.Inv.respond {s : State} (h : s.Inv) (v : Half16) : (s.respond v).Inv := h

theorem hardReset_inv {s : State} (h : s.BaseInv) : s.hardReset.Inv := by
  unfold State.hardReset
  exact (initAll_inv 0 h).setRsp none

/-! Commands. -/

/-- What a step must do for the invariant to be kept. -/
abbrev KeepsInv (o : Host.Outcome State Fault Refusal) : Prop := ∀ t, o = .next t → t.Inv

theorem keepsInv_next {t : State} (h : t.Inv) : KeepsInv (.next t) := by
  rintro _ ⟨⟩
  exact h

theorem keepsInv_refused (r : Refusal) : KeepsInv (.refused r) := by
  rintro _ ⟨⟩

theorem keepsInv_dispatched (s : State) {t : State} (h : t.Inv) : KeepsInv (s.dispatched t) := by
  intro u hu
  obtain ⟨-, rfl⟩ := (dispatched_next s t u).mp hu
  exact h

theorem execSetfn_keepsInv (f : Fn) {s : State} (h : s.Inv) : KeepsInv (execSetfn f s) := by
  obtain ⟨hbase, -⟩ := id h
  unfold execSetfn
  split
  next hsel =>
    have hinit := (initFn_baseInv f (hbase.setFunc hsel)).flush
    have hready : (initFn f { s with func := f }).flush.Ready (initFn f { s with func := f }).flush.func := by
      rw [State.flush_func, initFn_func]
      exact initFn_ready f _
    exact keepsInv_next ((configure_inv hinit hready).respond 0)
  next => exact keepsInv_next h

theorem procBuffered_inv (c : Byte) {s : State} (h : s.Inv) : (procBuffered c s).Inv := by
  obtain ⟨hbase, hactive⟩ := h
  obtain ⟨⟨-, -, -, -, hblock, hcap, -⟩, -, hin, hout, -⟩ := id hbase
  have hin' : (overwrite s.params.rbCap s.inq c).length ≤ s.params.rbCap := by
    rw [length_overwrite _ _ _ hin (by omega)]
    exact Nat.min_le_right _ _
  have hout' : (immediateRead 0 s.outq).2.length ≤ s.params.rbCap := by
    rw [immediateRead_eq, List.length_tail]
    omega
  exact ⟨hbase.setQueues hin' hout', hactive⟩

theorem execProc_keepsInv (c : Byte) {s : State} (h : s.Inv) : KeepsInv (execProc c s) := by
  obtain ⟨hbase, hfor⟩ := State.inv_iff.mp h
  obtain ⟨-, -, -, -, hpal, hbm, hr, hq, hb⟩ := id hbase
  cases hf : s.func with
  | rizm =>
    rw [execProc_rizm c hf]
    exact keepsInv_next (State.inv_iff.mpr ⟨hbase.setRizm hr, by simp [State.InvFor, hf]⟩)
  | pal v =>
    rw [hf] at hfor
    rw [execProc_pal c hf]
    obtain ⟨hinv, hinvFor⟩ := palProcess_valid s.params c ⟨hq, hfor⟩
    have hlen : (palProcess s.params v c s.pal).1.val.length = s.params.palCap := by rw [palProcess_length, hpal]
    exact keepsInv_next (State.inv_iff.mpr ⟨hbase.setPal hlen hinv, by simpa [State.InvFor, hf] using hinvFor⟩)
  | bm v =>
    rw [hf] at hfor
    rw [execProc_bm c hf]
    obtain ⟨hinv, hinvFor⟩ := bmProcess_keeps s.params c hb hfor
    have hlen : (bmProcess s.params v c s.bm).1.val.length = s.params.bmArrayCap := by
      rw [(bmProcess_latched s.params v c s.bm).1, hbm]
    exact keepsInv_next (State.inv_iff.mpr ⟨hbase.setBm hlen hinv, by simpa [State.InvFor, hf] using hinvFor⟩)
  | ext k =>
    match he : s.exts[k.val] with
    | none =>
      rw [execProc_absent c hf he]
      exact keepsInv_refused _
    | some ⟨.unbuffered, st⟩ =>
      rw [execProc_unbuffered c hf he]
      exact keepsInv_next ⟨hbase.setExts (sameSlots_updateExt s k _), h.2⟩
    | some ⟨.buffered, st⟩ =>
      rw [execProc_buffered c hf he]
      exact keepsInv_next (procBuffered_inv c h)

theorem fillBlock_inv (k : Fin 8) (e : ExtInst) {s : State} (h : s.Inv)
    (hroom : s.params.kBlock ≤ writable s.params.rbCap s.outq) : (fillBlock k e s).Inv := by
  obtain ⟨hbase, hactive⟩ := h
  obtain ⟨-, -, hin, hout, -⟩ := id hbase
  have hin' : (readBlock s.params.kBlock s.inq).2.length ≤ s.params.rbCap := by
    rw [readBlock_eq, List.length_drop]
    omega
  have hout' : ∀ out : List Half16, out.length = s.params.kBlock →
      (writeBlock s.params.rbCap s.outq out).length ≤ s.params.rbCap := by
    intro out hlen
    have hfits : s.outq.length + out.length ≤ s.params.rbCap := by
      unfold writable at hroom
      omega
    rwa [writeBlock_of_fits _ _ _ hfits, List.length_append]
  exact ⟨(hbase.setQueues hin' (hout' _ (length_extFill _ _ _ _))).setExts (sameSlots_updateExt s k _), hactive⟩

theorem execBuf_keepsInv {s : State} (h : s.Inv) : KeepsInv (execBuf s) := by
  by_cases hscope : ∀ k, s.func ≠ .ext k
  · rw [execBuf_inScope hscope]
    exact keepsInv_next h
  · push Not at hscope
    obtain ⟨k, hf⟩ := hscope
    match he : s.exts[k.val] with
    | none =>
      rw [execBuf_absent hf he]
      exact keepsInv_refused _
    | some ⟨.unbuffered, st⟩ =>
      rw [execBuf_unbuffered hf he]
      exact keepsInv_next h
    | some ⟨.buffered, st⟩ =>
      rw [execBuf_buffered hf he]
      split
      next hroom => exact keepsInv_next (fillBlock_inv k _ h hroom)
      next => exact keepsInv_next h

theorem execLedf_keepsInv {s : State} (h : s.Inv) : KeepsInv (execLedf s) := by
  unfold execLedf
  split <;> exact keepsInv_next h

theorem execLedn_keepsInv {s : State} (h : s.Inv) : KeepsInv (execLedn s) := by
  unfold execLedn
  split <;> exact keepsInv_next h

theorem exec_keepsInv (i : Instr) {s : State} (h : s.Inv) : KeepsInv (exec i s) := by
  cases i with
  | init index => exact keepsInv_next ((initAll_inv index h.1).respond 0)
  | setfn f => exact execSetfn_keepsInv f h
  | setmode m => exact keepsInv_dispatched s ((State.Inv.configure (s := { s with mode := m }) h).respond 0)
  | setpar idx value => exact keepsInv_dispatched s ((State.Inv.configure (s := s.setParam idx value) h).respond 0)
  | cpypar values =>
    exact keepsInv_dispatched s ((State.Inv.configure (s := { s with p := copyParams values s.p }) h).respond 0)
  | proc c => exact execProc_keepsInv c h
  | buf => exact execBuf_keepsInv h
  | cfg => exact keepsInv_dispatched s (h.configure.respond 0)
  | qnt raw => exact keepsInv_next (h.respond _)
  | ledf => exact execLedf_keepsInv h
  | ledn => exact execLedn_keepsInv h

/-- Settles O9: each kind of step keeps the invariant, which reads neither the port nor the response. -/
theorem stepKeepsMachineInvariant : Obligations.StepKeepsMachineInvariant := by
  intro s t h
  suffices hkeeps : KeepsInv (step s) from hkeeps t
  cases hfetch : fetch s.port with
  | idle =>
    rw [step_of_fetch_idle hfetch]
    exact keepsInv_next h
  | reset rest =>
    rw [step_of_fetch_reset hfetch]
    exact keepsInv_next (State.Inv.setPort (hardReset_inv h.1) rest)
  | refused r rest =>
    rw [step_of_fetch_refused hfetch]
    exact keepsInv_next h
  | command i rest =>
    rw [step_of_fetch_command hfetch]
    exact exec_keepsInv i h

end Sys2Proof.Machine

/-! The state after reset (10_state.md rule R33): it meets both invariants. -/

namespace Sys2Proof.Machine

theorem Params.reference_wf : Params.reference.Wf := by decide

/-- The reset state meets the invariant with any parameters that R6 allows. -/
theorem State.resetWith_inv {p : Params} (hp : p.Wf) : (State.resetWith p).Inv := by
  rw [State.inv_iff]
  exact ⟨⟨hp, rfl, Nat.zero_le _, Nat.zero_le _, List.length_replicate, List.length_replicate,
    ⟨Nat.le_of_ble_eq_true rfl, Nat.le_of_ble_eq_true rfl⟩, Pal.reset_inv hp, Bm.reset_inv hp⟩, trivial⟩

/-- Settles O8. -/
theorem resetStateMeetsInvariant : Obligations.ResetStateMeetsInvariant :=
  State.resetWith_inv Params.reference_wf

/-- The derived RIZM registers after reset are those of mid-scale knobs (R29, R133). -/
theorem rizmConfigure_reset : rizmConfigure (Vector.replicate 4 0x8000) Rizm.reset = Rizm.reset := by decide

theorem State.resetWith_configured (p : Params) : (State.resetWith p).Configured := by
  intro _
  change { State.resetWith p with rizm := rizmConfigure (Vector.replicate 4 0x8000) Rizm.reset } = State.resetWith p
  rw [rizmConfigure_reset]
  rfl

/-- Settles O58. -/
theorem resetStateIsConfigured : Obligations.ResetStateIsConfigured :=
  State.resetWith_configured Params.reference

end Sys2Proof.Machine

/-! Non-interference: what a command reads is what all functions share, and the registers of the active function
(10_state.md rules R20, R21). -/

namespace Sys2Proof.Machine

/-! What all functions share, as a state: the registers of every function cleared, and of a slot its style alone. Two
states share it when their `shared` are equal, and an operation that does not write it leaves `shared` as it is. -/

/-- The styles of the slots, with every collaborator's state cleared. -/
def clearExts (x : Vector (Option ExtInst) 8) : Vector (Option ExtInst) 8 :=
  x.map (Option.map fun e => { e with st := 0 })

def State.shared (s : State) : State :=
  { s with rizm := Rizm.reset, pal := Pal.reset s.params, bm := Bm.reset s.params, exts := clearExts s.exts }

/-- A slot with its state cleared tells its presence and its style. -/
theorem cleared_eq_iff (a b : Option ExtInst) :
    a.map (fun e => { e with st := 0 }) = b.map (fun e => { e with st := 0 }) ↔
      a.map ExtInst.style = b.map ExtInst.style := by
  cases a <;> cases b <;> simp

theorem clearExts_eq_iff (x y : Vector (Option ExtInst) 8) :
    clearExts x = clearExts y ↔ ∀ k : Fin 8, (x[k.val]).map ExtInst.style = (y[k.val]).map ExtInst.style := by
  constructor
  · intro h k
    have hk : (clearExts x)[k.val] = (clearExts y)[k.val] := by rw [h]
    simpa [clearExts, cleared_eq_iff] using hk
  · intro h
    refine Vector.ext fun i hi => ?_
    simpa [clearExts, cleared_eq_iff] using h ⟨i, hi⟩

theorem clearExts_updateExt (x : Vector (Option ExtInst) 8) (k : Fin 8) (f : Nat → Nat) :
    clearExts (updateExt x k f) = clearExts x :=
  (clearExts_eq_iff _ _).mpr (style_updateExt x k f)

/-- The two states agree on the registers of `f`. -/
def State.SameRegs (s t : State) : Fn → Prop
  | .rizm => s.rizm = t.rizm
  | .pal _ => s.pal = t.pal
  | .bm _ => s.bm = t.bm
  | .ext k => s.exts[k.val] = t.exts[k.val]

theorem State.sameActive_iff {s t : State} : s.SameActive t ↔ s.SameRegs t s.func := by
  unfold State.SameActive State.SameRegs
  cases s.func <;> rfl

theorem State.shared_eq_iff {s t : State} :
    s.shared = t.shared ↔
      s.p = t.p ∧ s.func = t.func ∧ s.chan = t.chan ∧ s.mode = t.mode ∧ s.inq = t.inq ∧ s.outq = t.outq ∧
        s.params = t.params ∧ s.port = t.port ∧ s.rsp = t.rsp ∧ s.SameSlots t := by
  have hslots : clearExts s.exts = clearExts t.exts ↔ s.SameSlots t := clearExts_eq_iff s.exts t.exts
  simp only [State.shared, State.mk.injEq, hslots]
  constructor
  · rintro ⟨hp, hfunc, hchan, hmode, hin, hout, -, -, -, hslots, hparams, hport, hrsp⟩
    exact ⟨hp, hfunc, hchan, hmode, hin, hout, hparams, hport, hrsp, hslots⟩
  · rintro ⟨hp, hfunc, hchan, hmode, hin, hout, hparams, hport, hrsp, hslots⟩
    exact ⟨hp, hfunc, hchan, hmode, hin, hout, trivial, congrArg Pal.reset hparams, congrArg Bm.reset hparams, hslots,
      hparams, hport, hrsp⟩

theorem State.agree_iff {s t : State} : s.Agree t ↔ s.shared = t.shared ∧ s.SameRegs t s.func := by
  rw [State.shared_eq_iff, ← State.sameActive_iff]
  simp only [State.Agree, and_assoc]

/-! Init and Configure write nothing that is shared, and read nothing but it and the registers of their function. -/

theorem initFn_shared (f : Fn) (s : State) : (initFn f s).shared = s.shared := by
  cases f with
  | ext k => simp [State.shared, initFn, clearExts_updateExt]
  | _ => rfl

theorem configureFn_shared (f : Fn) (s : State) : (configureFn f s).shared = s.shared := by
  cases f with
  | ext k => simp [State.shared, configureFn, clearExts_updateExt]
  | _ => rfl

theorem configureFn_sameRegs {s t : State} (f : Fn) (hshared : s.shared = t.shared) (h : s.SameRegs t f) :
    (configureFn f s).SameRegs (configureFn f t) f := by
  obtain ⟨hp, -, -, hmode, -, -, hparams, -⟩ := State.shared_eq_iff.mp hshared
  cases f with
  | ext k =>
    have hk : s.exts[k.val] = t.exts[k.val] := h
    simp [State.SameRegs, configureFn, getElem_updateExt, hk, hp, hmode]
  | _ =>
    simp only [State.SameRegs] at h
    simp [State.SameRegs, configureFn, h, hp, hmode, hparams]

/-- Configure writes every RIZM register that init does not (R132, R133). -/
theorem rizmConfigure_rizmInit (e : Knobs) (r r' : Rizm) :
    rizmConfigure e (rizmInit r) = rizmConfigure e (rizmInit r') := rfl

/-- A slot given a new state depends on its style alone. -/
theorem map_st_eq_of_style {a b : Option ExtInst} (h : a.map ExtInst.style = b.map ExtInst.style) (st : Nat) :
    (a.map fun e => { e with st := st }) = b.map fun e => { e with st := st } := by
  cases a <;> cases b <;> simp_all

/-- Init followed by Configure leaves nothing of the registers' history: the registers of `f` are then functions of what
is shared (R266 (c)). -/
theorem configureFn_initFn_sameRegs {s t : State} (f : Fn) (hshared : s.shared = t.shared) :
    (configureFn f (initFn f s)).SameRegs (configureFn f (initFn f t)) f := by
  have hshared' : (initFn f s).shared = (initFn f t).shared := by rw [initFn_shared, initFn_shared, hshared]
  obtain ⟨hp, -, hchan, hmode, -, -, hparams, -, -, hslots⟩ := State.shared_eq_iff.mp hshared
  cases f with
  | rizm => simp [State.SameRegs, configureFn, initFn, rizmConfigure_rizmInit _ s.rizm t.rizm, hp, hmode, hparams]
  | pal v => exact configureFn_sameRegs _ hshared' (by simp [State.SameRegs, initFn, hparams])
  | bm v => exact configureFn_sameRegs _ hshared' (by simp [State.SameRegs, initFn, hparams])
  | ext k =>
    refine configureFn_sameRegs _ hshared' ?_
    simp only [State.SameRegs, initFn, getElem_updateExt, hchan, if_true]
    exact map_st_eq_of_style (hslots k) _

/-! One rule for each operation of the commands: it takes states that agree to states that agree. -/

theorem State.Agree.selectable {s t : State} (h : s.Agree t) (f : Fn) : s.selectable f = t.selectable f := by
  obtain ⟨-, -, -, -, -, -, -, -, -, hslots, -⟩ := h
  exact selectable_congr hslots f

/-- Agreement is kept by an update that keeps both of its parts. -/
theorem State.Agree.update {s t s' t' : State} (h : s.Agree t) (hshared : s.shared = t.shared → s'.shared = t'.shared)
    (hregs : s.SameRegs t s.func → s'.SameRegs t' s'.func) : s'.Agree t' :=
  State.agree_iff.mpr ((State.agree_iff.mp h).imp hshared hregs)

theorem State.Agree.setPort {s t : State} (h : s.Agree t) (port : List PortEvent) :
    ({ s with port := port } : State).Agree { t with port := port } :=
  h.update (congrArg fun u : State => { u with port := port }) id

theorem State.Agree.setRsp {s t : State} (h : s.Agree t) (rsp : Option Response) :
    ({ s with rsp := rsp } : State).Agree { t with rsp := rsp } :=
  h.update (congrArg fun u : State => { u with rsp := rsp }) id

theorem State.Agree.respond {s t : State} (h : s.Agree t) (v : Half16) : (s.respond v).Agree (t.respond v) :=
  h.setRsp _

theorem State.Agree.refuseWord {s t : State} (h : s.Agree t) : s.refuseWord.Agree t.refuseWord :=
  h.setRsp _

theorem State.Agree.setMode {s t : State} (h : s.Agree t) (mode : Mode) :
    ({ s with mode := mode } : State).Agree { t with mode := mode } :=
  h.update (congrArg fun u : State => { u with mode := mode }) id

theorem State.Agree.setP {s t : State} (h : s.Agree t) (p : Knobs) :
    ({ s with p := p } : State).Agree { t with p := p } :=
  h.update (congrArg fun u : State => { u with p := p }) id

theorem State.Agree.setQueues {s t : State} (h : s.Agree t) (inq : List Byte) (outq : List Half16) :
    ({ s with inq := inq, outq := outq } : State).Agree { t with inq := inq, outq := outq } :=
  h.update (congrArg fun u : State => { u with inq := inq, outq := outq }) id

/-! The same new registers for the active function. -/

theorem State.Agree.setRizm {s t : State} (h : s.Agree t) (hf : s.func = .rizm) (r : Rizm) :
    ({ s with rizm := r } : State).Agree { t with rizm := r } :=
  h.update id fun _ => by simp [hf, State.SameRegs]

theorem State.Agree.setPal {s t : State} {v : PalVariant} (h : s.Agree t) (hf : s.func = .pal v) (q : Pal) :
    ({ s with pal := q } : State).Agree { t with pal := q } :=
  h.update id fun _ => by simp [hf, State.SameRegs]

theorem State.Agree.setBm {s t : State} {v : BmVariant} (h : s.Agree t) (hf : s.func = .bm v) (b : Bm) :
    ({ s with bm := b } : State).Agree { t with bm := b } :=
  h.update id fun _ => by simp [hf, State.SameRegs]

theorem State.Agree.updateSlot {s t : State} {k : Fin 8} (h : s.Agree t) (hf : s.func = .ext k) (g : Nat → Nat) :
    ({ s with exts := updateExt s.exts k g } : State).Agree
      { t with exts := updateExt t.exts k g } := by
  refine h.update (fun hshared => ?_) fun hregs => ?_
  · simpa only [State.shared, clearExts_updateExt] using hshared
  · simp only [hf, State.SameRegs, getElem_updateExt, if_true] at hregs ⊢
    rw [hregs]

theorem State.Agree.configure {s t : State} (h : s.Agree t) : s.configure.Agree t.configure := by
  obtain ⟨hshared, hregs⟩ := State.agree_iff.mp h
  obtain ⟨-, hfunc, -⟩ := State.shared_eq_iff.mp hshared
  rw [State.agree_iff, State.configure_func]
  simp only [State.configure, policy, configureFn_shared, ← hfunc]
  exact ⟨hshared, configureFn_sameRegs s.func hshared hregs⟩

/-! Init and Configure of a function make two states agree that agreed on what is shared alone. -/

theorem agree_configure_initFn {s t : State} {f : Fn} (hf : s.func = f) (hshared : s.shared = t.shared) :
    (initFn f s).configure.Agree (initFn f t).configure := by
  obtain ⟨-, hfunc, -⟩ := State.shared_eq_iff.mp hshared
  rw [State.agree_iff, State.configure_func, initFn_func, hf]
  simp only [State.configure, policy, initFn_func, ← hfunc, hf, configureFn_shared, initFn_shared]
  exact ⟨hshared, configureFn_initFn_sameRegs f hshared⟩

theorem initFn_flush (f : Fn) (s : State) : (initFn f s).flush = initFn f s.flush := by
  cases f <;> rfl

theorem clearExts_initExts (c : Byte) (x : Vector (Option ExtInst) 8) : clearExts (initExts c x) = clearExts x := by
  rw [clearExts_eq_iff]
  intro k
  simp [getElem_initExts, Function.comp_def]

theorem initAll_shared (index : Byte) (s : State) :
    (s.initAll index).shared = { s.shared with
      chan := index, p := Vector.replicate 4 0x8000, mode := .full, inq := [], outq := [], func := .rizm } := by
  refine (configureFn_shared _ _).trans ?_
  simp [State.shared, clearExts_initExts, initFn]

theorem initAll_rizm (index : Byte) (s : State) :
    (s.initAll index).rizm = rizmConfigure (Vector.replicate 4 0x8000) (rizmInit s.rizm) := rfl

theorem agree_initAll (index : Byte) {s t : State} (hshared : s.shared = t.shared) :
    (s.initAll index).Agree (t.initAll index) := by
  have hfunc : (s.initAll index).func = .rizm := State.configure_func _
  rw [State.agree_iff, initAll_shared, initAll_shared, hshared, hfunc]
  refine ⟨rfl, ?_⟩
  simp only [State.SameRegs, initAll_rizm]
  exact rizmConfigure_rizmInit _ _ _

/-! Commands. -/

/-- Both go on, in states that agree, or both are refused. -/
def SameOutcome (o o' : Host.Outcome State Fault Refusal) : Prop :=
  (∃ s' t', o = .next s' ∧ o' = .next t' ∧ s'.Agree t') ∨
    (o = .refused .corruptFunction ∧ o' = .refused .corruptFunction)

theorem sameOutcome_next {s t : State} (h : s.Agree t) : SameOutcome (.next s) (.next t) :=
  .inl ⟨s, t, rfl, rfl, h⟩

theorem sameOutcome_refused : SameOutcome (.refused .corruptFunction) (.refused .corruptFunction) := .inr ⟨rfl, rfl⟩

theorem sameOutcome_dispatched {s t s' t' : State} (h : s.Agree t) (h' : s'.Agree t') :
    SameOutcome (s.dispatched s') (t.dispatched t') := by
  obtain ⟨-, hfunc, -⟩ := id h
  unfold State.dispatched
  rw [h.selectable, hfunc]
  split
  · exact sameOutcome_next h'
  · exact sameOutcome_refused

theorem execSetfn_sameOutcome (f : Fn) {s t : State} (h : s.Agree t) : SameOutcome (execSetfn f s) (execSetfn f t) := by
  obtain ⟨hshared, -⟩ := State.agree_iff.mp h
  unfold execSetfn
  rw [h.selectable]
  split
  · have hselected : ({ s with func := f } : State).flush.shared = ({ t with func := f } : State).flush.shared :=
      congrArg (fun u : State => ({ u with func := f } : State).flush) hshared
    rw [initFn_flush, initFn_flush]
    exact sameOutcome_next ((agree_configure_initFn rfl hselected).respond 0)
  · exact sameOutcome_next h.refuseWord

theorem execSetpar_sameOutcome (idx : Fin 4) (value : Half16) {s t : State} (h : s.Agree t) :
    SameOutcome (execSetpar idx value s) (execSetpar idx value t) := by
  obtain ⟨hp, -⟩ := id h
  have hset : (s.setParam idx value).Agree (t.setParam idx value) := by
    unfold State.setParam
    rw [hp]
    exact h.setP _
  exact sameOutcome_dispatched h (hset.configure.respond 0)

theorem execCpypar_sameOutcome (values : List Half16) {s t : State} (h : s.Agree t) :
    SameOutcome (execCpypar values s) (execCpypar values t) := by
  obtain ⟨hp, -⟩ := id h
  unfold execCpypar
  rw [hp]
  exact sameOutcome_dispatched h ((h.setP _).configure.respond 0)

theorem agree_procBuffered (c : Byte) {s t : State} (h : s.Agree t) : (procBuffered c s).Agree (procBuffered c t) := by
  obtain ⟨-, -, -, -, hin, hout, hparams, -⟩ := id h
  have hqueue : overwrite s.params.rbCap s.inq c = overwrite t.params.rbCap t.inq c := by rw [hin, hparams]
  unfold procBuffered
  rw [hqueue, hout]
  exact (h.setQueues _ _).respond _

theorem execProc_sameOutcome (c : Byte) {s t : State} (h : s.Agree t) : SameOutcome (execProc c s) (execProc c t) := by
  obtain ⟨-, hfunc, -, -, -, -, hparams, -⟩ := id h
  obtain ⟨-, hregs⟩ := State.agree_iff.mp h
  cases hf : s.func with
  | rizm =>
    rw [hf, State.SameRegs] at hregs
    have hprocess : rizmProcess s.params c s.rizm = rizmProcess t.params c t.rizm := by rw [hparams, hregs]
    rw [execProc_rizm c hf, execProc_rizm c (hfunc ▸ hf), hprocess]
    exact sameOutcome_next ((h.setRizm hf _).respond _)
  | pal v =>
    rw [hf, State.SameRegs] at hregs
    have hprocess : palProcess s.params v c s.pal = palProcess t.params v c t.pal := by rw [hparams, hregs]
    rw [execProc_pal c hf, execProc_pal c (hfunc ▸ hf), hprocess]
    exact sameOutcome_next ((h.setPal hf _).respond _)
  | bm v =>
    rw [hf, State.SameRegs] at hregs
    have hprocess : bmProcess s.params v c s.bm = bmProcess t.params v c t.bm := by rw [hparams, hregs]
    rw [execProc_bm c hf, execProc_bm c (hfunc ▸ hf), hprocess]
    exact sameOutcome_next ((h.setBm hf _).respond _)
  | ext k =>
    rw [hf, State.SameRegs] at hregs
    match he : s.exts[k.val] with
    | none =>
      rw [execProc_absent c hf he, execProc_absent c (hfunc ▸ hf) (hregs ▸ he)]
      exact sameOutcome_refused
    | some ⟨.unbuffered, st⟩ =>
      rw [execProc_unbuffered c hf he, execProc_unbuffered c (hfunc ▸ hf) (hregs ▸ he)]
      exact sameOutcome_next ((h.updateSlot hf _).respond _)
    | some ⟨.buffered, st⟩ =>
      rw [execProc_buffered c hf he, execProc_buffered c (hfunc ▸ hf) (hregs ▸ he)]
      exact sameOutcome_next (agree_procBuffered c h)

theorem agree_fillBlock {k : Fin 8} (e : ExtInst) {s t : State} (h : s.Agree t) (hf : s.func = .ext k) :
    (fillBlock k e s).Agree (fillBlock k e t) := by
  obtain ⟨-, -, -, -, hin, hout, hparams, -⟩ := id h
  have hread : readBlock s.params.kBlock s.inq = readBlock t.params.kBlock t.inq := by rw [hin, hparams]
  have hwrite (bytes : List Byte) :
      writeBlock s.params.rbCap s.outq (extFill s.params.kBlock k e.st bytes) =
        writeBlock t.params.rbCap t.outq (extFill t.params.kBlock k e.st bytes) := by rw [hout, hparams]
  simp only [fillBlock, hread, hwrite]
  exact (h.updateSlot hf _).setQueues _ _

theorem execBuf_sameOutcome {s t : State} (h : s.Agree t) : SameOutcome (execBuf s) (execBuf t) := by
  obtain ⟨-, hfunc, -, -, -, hout, hparams, -⟩ := id h
  obtain ⟨-, hregs⟩ := State.agree_iff.mp h
  by_cases hscope : ∀ k, s.func ≠ .ext k
  · rw [execBuf_inScope hscope, execBuf_inScope (hfunc ▸ hscope)]
    exact sameOutcome_next (h.respond 0)
  · push Not at hscope
    obtain ⟨k, hf⟩ := hscope
    rw [hf, State.SameRegs] at hregs
    match he : s.exts[k.val] with
    | none =>
      rw [execBuf_absent hf he, execBuf_absent (hfunc ▸ hf) (hregs ▸ he)]
      exact sameOutcome_refused
    | some ⟨.unbuffered, st⟩ =>
      rw [execBuf_unbuffered hf he, execBuf_unbuffered (hfunc ▸ hf) (hregs ▸ he)]
      exact sameOutcome_next (h.respond 0)
    | some ⟨.buffered, st⟩ =>
      rw [execBuf_buffered hf he, execBuf_buffered (hfunc ▸ hf) (hregs ▸ he), hparams, hout]
      split
      · exact sameOutcome_next ((agree_fillBlock _ h hf).respond 1)
      · exact sameOutcome_next (h.respond 0)

theorem execLedf_sameOutcome {s t : State} (h : s.Agree t) : SameOutcome (execLedf s) (execLedf t) := by
  obtain ⟨-, hfunc, -⟩ := id h
  obtain ⟨-, hregs⟩ := State.agree_iff.mp h
  unfold execLedf
  rw [← hfunc]
  cases hf : s.func with
  | bm v =>
    rw [hf, State.SameRegs] at hregs
    rw [hregs]
    exact sameOutcome_next (h.respond _)
  | _ => exact sameOutcome_next (h.respond 0)

theorem execLedn_sameOutcome {s t : State} (h : s.Agree t) : SameOutcome (execLedn s) (execLedn t) := by
  obtain ⟨-, hfunc, -⟩ := id h
  obtain ⟨-, hregs⟩ := State.agree_iff.mp h
  unfold execLedn
  rw [← hfunc]
  cases hf : s.func with
  | bm v =>
    rw [hf, State.SameRegs] at hregs
    rw [hregs]
    exact sameOutcome_next (h.respond _)
  | _ => exact sameOutcome_next (h.respond 0)

theorem execQnt_sameOutcome (raw : Half16) {s t : State} (h : s.Agree t) :
    SameOutcome (execQnt raw s) (execQnt raw t) := by
  obtain ⟨-, -, -, -, -, -, hparams, -⟩ := id h
  unfold execQnt
  rw [hparams]
  exact sameOutcome_next (h.respond _)

theorem exec_sameOutcome (i : Instr) {s t : State} (h : s.Agree t) : SameOutcome (exec i s) (exec i t) := by
  cases i with
  | init index => exact sameOutcome_next ((agree_initAll index (State.agree_iff.mp h).1).respond 0)
  | setfn f => exact execSetfn_sameOutcome f h
  | setmode m => exact sameOutcome_dispatched h ((h.setMode m).configure.respond 0)
  | setpar idx value => exact execSetpar_sameOutcome idx value h
  | cpypar values => exact execCpypar_sameOutcome values h
  | proc c => exact execProc_sameOutcome c h
  | buf => exact execBuf_sameOutcome h
  | cfg => exact sameOutcome_dispatched h (h.configure.respond 0)
  | qnt raw => exact execQnt_sameOutcome raw h
  | ledf => exact execLedf_sameOutcome h
  | ledn => exact execLedn_sameOutcome h

/-- Settles O50: both states fetch the same, since the port is shared, and each command keeps their agreement. -/
theorem unselectedStateIsUnobservable : Obligations.UnselectedStateIsUnobservable := by
  intro s t h
  change SameOutcome (step s) (step t)
  obtain ⟨hshared, -⟩ := State.agree_iff.mp h
  obtain ⟨-, -, -, -, -, -, -, hport, -⟩ := id h
  cases hfetch : fetch s.port with
  | idle =>
    rw [step_of_fetch_idle hfetch, step_of_fetch_idle (hport ▸ hfetch)]
    exact sameOutcome_next (h.setRsp none)
  | reset rest =>
    rw [step_of_fetch_reset hfetch, step_of_fetch_reset (hport ▸ hfetch)]
    exact sameOutcome_next (((agree_initAll 0 hshared).setRsp none).setPort rest)
  | refused r rest =>
    rw [step_of_fetch_refused hfetch, step_of_fetch_refused (hport ▸ hfetch)]
    exact sameOutcome_next (h.setPort rest).refuseWord
  | command i rest =>
    rw [step_of_fetch_command hfetch, step_of_fetch_command (hport ▸ hfetch)]
    exact exec_sameOutcome i (h.setPort rest)

end Sys2Proof.Machine

/-! What the commands that configure without initialising leave unchanged: the registers by which a function runs, and
everything of the functions that are not active (20_memory.md rule R75; 45_laws.md rule R266 (a)). -/

namespace Sys2Proof.Machine

/-! The registers that a tick moves and no Configure writes. -/

/-- The step index, the window flags and the step values of `r` are those of `q`: the PAL registers of R75. -/
abbrev Pal.SameRun (r q : Pal) : Prop := r.idx = q.idx ∧ r.lastW = q.lastW ∧ r.held = q.held ∧ r.val = q.val

/-- The step index, the frame index, the octave flip and the last sample of `a` are those of `b`: the BM registers of
R75, and `BM_LASTQ`. -/
abbrev Bm.SameRun (a b : Bm) : Prop := a.idx = b.idx ∧ a.frame = b.frame ∧ a.flip = b.flip ∧ a.lastQ = b.lastQ

theorem palConfigure_sameRun (e : Knobs) (q : Pal) : (palConfigure e q).SameRun q := ⟨rfl, rfl, rfl, rfl⟩

/-- Recording a knob writes a step value and a snapshot (R200). -/
theorem bmLatch_eq (v : BmVariant) (e : Knobs) (b : Bm) (k : Fin 4) :
    ∃ val snap, bmLatch v e b k = { b with val := val, snap := snap } := by
  unfold bmLatch
  split
  · exact ⟨_, _, rfl⟩
  · exact ⟨b.val, b.snap, rfl⟩

theorem bmLatch_sameRun (v : BmVariant) (e : Knobs) {b c : Bm} (k : Fin 4) (h : b.SameRun c) :
    (bmLatch v e b k).SameRun c := by
  obtain ⟨val, snap, hlatch⟩ := bmLatch_eq v e b k
  rw [hlatch]
  exact h

theorem bmConfigure_sameRun (v : BmVariant) (e : Knobs) (b : Bm) : (bmConfigure v e b).SameRun b :=
  List.foldlRecOn (motive := fun c : Bm => c.SameRun b) (bmSlots v) (bmLatch v e) ⟨rfl, rfl, rfl, rfl⟩
    fun _ h k _ => bmLatch_sameRun v e k h

/-! `configureFn` keeps those registers, whatever function it names (R75). -/

theorem configureFn_rizm_step (f : Fn) (s : State) : (configureFn f s).rizm.step = s.rizm.step := by
  cases f <;> rfl

theorem configureFn_pal_sameRun (f : Fn) (s : State) : (configureFn f s).pal.SameRun s.pal := by
  cases f with
  | pal v => exact palConfigure_sameRun _ _
  | _ => exact ⟨rfl, rfl, rfl, rfl⟩

theorem configureFn_bm_sameRun (f : Fn) (s : State) : (configureFn f s).bm.SameRun s.bm := by
  cases f with
  | bm v => exact bmConfigure_sameRun _ _ _
  | _ => exact ⟨rfl, rfl, rfl, rfl⟩

/-! `configureFn` writes no register of a function it does not name (R236, R266 (a)). -/

theorem configureFn_rizm_of_ne {f : Fn} (s : State) (hf : f ≠ .rizm) : (configureFn f s).rizm = s.rizm := by
  cases f with
  | rizm => exact absurd rfl hf
  | _ => rfl

theorem configureFn_pal_of_ne {f : Fn} (s : State) (hf : ∀ v, f ≠ .pal v) : (configureFn f s).pal = s.pal := by
  cases f with
  | pal v => exact absurd rfl (hf v)
  | _ => rfl

theorem configureFn_bm_of_ne {f : Fn} (s : State) (hf : ∀ v, f ≠ .bm v) : (configureFn f s).bm = s.bm := by
  cases f with
  | bm v => exact absurd rfl (hf v)
  | _ => rfl

theorem configureFn_ext_of_ne {f : Fn} (s : State) {k : Fin 8} (hf : f ≠ .ext k) :
    (configureFn f s).exts[k.val] = s.exts[k.val] := by
  cases f with
  | ext j =>
    have hjk : j ≠ k := fun h => hf (congrArg Fn.ext h)
    exact (getElem_updateExt s.exts j _ k).trans (if_neg hjk)
  | _ => rfl

/-- CFG, SETMODE, SETPAR and CPYPAR complete by writing the knobs or the mode, if anything, and then one Configure of
the active function (R235, R240, R242, R244). -/
theorem exec_configuring {s t : State} {i : Instr}
    (hi : i = .cfg ∨ (∃ m, i = .setmode m) ∨ (∃ k x, i = .setpar k x) ∨ ∃ xs, i = .cpypar xs)
    (h : exec i s = .next t) :
    ∃ p m, t = ({ s with p := p, mode := m } : State).configure.respond 0 := by
  obtain rfl | ⟨m, rfl⟩ | ⟨k, x, rfl⟩ | ⟨xs, rfl⟩ := hi
  · exact ⟨s.p, s.mode, ((dispatched_next _ _ _).mp h).2⟩
  · exact ⟨s.p, m, ((dispatched_next _ _ _).mp h).2⟩
  · exact ⟨s.p.set k.val x, s.mode, ((dispatched_next _ _ _).mp h).2⟩
  · exact ⟨copyParams xs s.p, s.mode, ((dispatched_next _ _ _).mp h).2⟩

/-- Settles O24: each of these commands is one Configure of a state that differs from `s` in knobs and mode alone. -/
theorem configureKeepsIndices : Obligations.ConfigureKeepsIndices := by
  intro s t i hi hexec
  obtain ⟨p, m, rfl⟩ := exec_configuring hi hexec
  let u : State := { s with p := p, mode := m }
  obtain ⟨hidx, hlastW, hheld, hval⟩ := configureFn_pal_sameRun s.func u
  obtain ⟨hbmIdx, hframe, hflip, hlastQ⟩ := configureFn_bm_sameRun s.func u
  exact ⟨configureFn_rizm_step s.func u, hidx, hlastW, hheld, hval, hbmIdx, hframe, hflip, hlastQ,
    u.configure_inq, u.configure_outq, u.configure_func, u.configure_chan,
    configureFn_rizm_of_ne u, configureFn_pal_of_ne u, configureFn_bm_of_ne u, fun _ => configureFn_ext_of_ne u⟩

end Sys2Proof.Machine

/-! The ring buffers as bounded first-in first-out queues (20_memory.md rules R63 and R64). -/

namespace Sys2Proof.Machine

/-- A full queue loses its oldest element (R63). -/
theorem overwrite_of_le {α : Type} (cap : Nat) (q : List α) (v : α) (h : cap ≤ q.length) :
    overwrite cap q v = q.drop 1 ++ [v] := by
  rw [overwrite, if_pos h, List.drop_one]

/-- Settles O43. -/
theorem queueOperationsAreFifo : Obligations.QueueOperationsAreFifo := by
  refine ⟨fun α cap q y hlen hcap => ⟨?length, ?room, ?full⟩, fun q y => ⟨?_, ?_⟩, fun q y => ⟨?_, ?_⟩⟩
  case length => exact length_overwrite cap q y hlen hcap
  case room => exact overwrite_of_lt cap q y
  case full => exact fun hfull => overwrite_of_le cap q y hfull.ge
  all_goals exact immediateRead_eq 0 _

end Sys2Proof.Machine

/-! The decoder and the encoder are inverse to each other: what decodes is exactly what was encoded (30_encoding.md
rules R81 to R91). -/

namespace Sys2Proof

/-! The decoder on a list of words is the decoder of one command on the words that its first word asks for. -/

theorem decode_cons_append {w : Word} {ds : List Word} (rest : List Word) (hlen : ds.length = dataCount w) :
    decode (w :: (ds ++ rest)) = decodeCommand w ds := by
  simp [decode, ← hlen]

/-- A decoded list begins with the words of one command (R91). -/
theorem decode_ok {ws : List Word} {i : Instr} (h : decode ws = .ok i) :
    ∃ w ds rest, ws = w :: (ds ++ rest) ∧ ds.length = dataCount w ∧ decodeCommand w ds = .ok i := by
  cases ws with
  | nil => simp [decode] at h
  | cons w ws =>
    simp only [decode] at h
    split at h
    next => cases h
    next hlen =>
      exact ⟨w, ws.take (dataCount w), ws.drop (dataCount w), by rw [List.take_append_drop],
        List.length_take_of_le (Nat.le_of_not_lt hlen), h⟩

/-! From a command to its words and back. -/

theorem mode_ofBit_bit (m : Mode) : Mode.ofBit m.bit = m := by cases m <;> rfl

theorem bit_ofBit (b : Bool) : (Mode.ofBit b).bit = b := by cases b <;> rfl

/-- The operand bit of SETMODE is the mode bit (R86). -/
theorem setmodeBit_getLsbD (m : Mode) : ((BitVec.ofBool m.bit).setWidth 8).getLsbD 0 = m.bit := by cases m <;> rfl

/-- The two operand bits of SETPAR hold the index (R87). -/
theorem setparIdx_toFin (k : Fin 4) : ((BitVec.ofNat 8 k.val).setWidth 2).toFin = k := by revert k; decide

/-- A data word of CPYPAR is a value with a zero upper half (R82 format D, R88). -/
theorem dataWord_upper (x : Half16) : (x.setWidth 32).extractLsb' 16 16 = 0 := by
  apply BitVec.eq_of_getLsbD_eq
  intro k hk
  simp

theorem wordImm_dataWord (x : Half16) : wordImm (x.setWidth 32) = x := by
  apply BitVec.eq_of_getLsbD_eq
  intro k hk
  simp [wordImm, hk]
  omega

/-! `decodeCommand`, one equation for each row of the opcode map (R84 to R90). -/

section
variable {w : Word} (ds : List Word)

theorem decodeCommand_init (h : classify w = .ok .init) : decodeCommand w ds = .ok (.init (wordA w)) := by
  simp only [decodeCommand, h]

theorem decodeCommand_setfn (h : classify w = .ok .setfn) :
    decodeCommand w ds = .ok (.setfn (Fn.ofCode (w.extractLsb' 16 4))) := by
  simp only [decodeCommand, h]

theorem decodeCommand_setmode (h : classify w = .ok .setmode) :
    decodeCommand w ds = .ok (.setmode (Mode.ofBit (w.getLsbD 16))) := by
  simp only [decodeCommand, h]

theorem decodeCommand_setpar (h : classify w = .ok .setpar) :
    decodeCommand w ds = .ok (.setpar (w.extractLsb' 16 2).toFin (wordImm w)) := by
  simp only [decodeCommand, h]

theorem decodeCommand_cpypar (h : classify w = .ok .cpypar) :
    decodeCommand w ds =
      if ∀ d ∈ ds, d.extractLsb' 16 16 = 0 then .ok (.cpypar (ds.map wordImm)) else .error .dataUpperHalf := by
  simp only [decodeCommand, h, List.all_eq_true, beq_iff_eq]

theorem decodeCommand_proc (h : classify w = .ok .proc) : decodeCommand w ds = .ok (.proc (wordA w)) := by
  simp only [decodeCommand, h]

theorem decodeCommand_buf (h : classify w = .ok .buf) : decodeCommand w ds = .ok .buf := by
  simp only [decodeCommand, h]

theorem decodeCommand_cfg (h : classify w = .ok .cfg) : decodeCommand w ds = .ok .cfg := by
  simp only [decodeCommand, h]

theorem decodeCommand_qnt (h : classify w = .ok .qnt) : decodeCommand w ds = .ok (.qnt (wordImm w)) := by
  simp only [decodeCommand, h]

theorem decodeCommand_ledf (h : classify w = .ok .ledf) : decodeCommand w ds = .ok .ledf := by
  simp only [decodeCommand, h]

theorem decodeCommand_ledn (h : classify w = .ok .ledn) : decodeCommand w ds = .ok .ledn := by
  simp only [decodeCommand, h]

end

/-- The words of a well-formed command decode to it, row by row of the opcode map (R84 to R90). -/
theorem decodeCommand_of_encode {i : Instr} {w : Word} {ds : List Word} (hwf : i.wf = true) (h : encode i = w :: ds) :
    decodeCommand w ds = .ok i := by
  cases i <;> cases h
  case init index => rw [decodeCommand_init _ (classify_init index), wordA_mkWord]
  case setfn f =>
    have hcode : (f.code.setWidth 8).setWidth 4 = f.code := by simp
    rw [decodeCommand_setfn _ (classify_setfn _ (code_unused f)), extract_a_mkWord 4 (by decide), hcode, ofCode_code]
  case setmode m =>
    rw [decodeCommand_setmode _ (classify_setmode _ (mode_unused m)), getLsbD_16_mkWord, setmodeBit_getLsbD,
      mode_ofBit_bit]
  case setpar idx value =>
    rw [decodeCommand_setpar _ (classify_setpar _ value (idx_unused idx)), extract_a_mkWord 2 (by decide),
      setparIdx_toFin, wordImm_mkWord]
  case cpypar values =>
    have hsize : values.length ≤ 4 := by simpa [Instr.wf] using hwf
    have hupper : ∀ d ∈ values.map (BitVec.setWidth 32), d.extractLsb' 16 16 = 0 := by simp [dataWord_upper]
    have hvalues : (values.map (BitVec.setWidth 32)).map wordImm = values := by
      simp [wordImm_dataWord, Function.comp_def]
    rw [decodeCommand_cpypar _ (classify_cpypar _ hsize), if_pos hupper, hvalues]
  case proc control => rw [decodeCommand_proc _ (classify_proc control), wordA_mkWord]
  case qnt raw => rw [decodeCommand_qnt _ (classify_qnt raw), wordImm_mkWord]
  all_goals decide

/-- Every command has the shape of an encoding (R81, R91). -/
theorem encode_shape (i : Instr) : Laws.EncodeShape.Statement i := by
  cases i with
  | init index => exact Laws.EncodeShape.init index
  | setfn f => exact Laws.EncodeShape.setfn f
  | setmode m => exact Laws.EncodeShape.setmode m
  | setpar idx value => exact Laws.EncodeShape.setpar idx value
  | cpypar values => exact Laws.EncodeShape.cpypar values
  | proc control => exact Laws.EncodeShape.proc control
  | buf => exact Laws.EncodeShape.buf
  | cfg => exact Laws.EncodeShape.cfg
  | qnt raw => exact Laws.EncodeShape.qnt raw
  | ledf => exact Laws.EncodeShape.ledf
  | ledn => exact Laws.EncodeShape.ledn

/-- Settles O1: the first word of an encoding asks for exactly the words of that encoding. -/
theorem decodeOfEncodedCommand : Obligations.DecodeOfEncodedCommand := by
  intro i ws hwf
  obtain ⟨w, ds, hwords, -, hlen⟩ := encode_shape i hwf
  rw [hwords, List.cons_append, decode_cons_append ws hlen]
  exact decodeCommand_of_encode hwf hwords

/-! The rows of the opcode map, from a word to its fields (R81, R83). -/

/-- A word with a zero `z` field is built from its three other fields (R81). -/
theorem eq_mkWord_of_wordZ {w : Word} (h : wordZ w = 0) : w = mkWord (wordOpc w) (wordA w) (wordImm w) := by
  have hz : ∀ k < 4, w.getLsbD (24 + k) = false := by
    intro k hk
    have := congrArg (·.getLsbD k) h
    simpa [wordZ, hk] using this
  apply BitVec.eq_of_getLsbD_eq
  intro k hk
  have := hz (k - 24)
  simp [mkWord, wordOpc, wordA, wordImm, hk]
  grind

/-- The steps of R91 that a word passes to classify. -/
theorem classify_ok {w : Word} {o : Opc} (h : classify w = .ok o) :
    wordZ w = 0 ∧ findRow w = some o ∧ (o = .cpypar → copySize w ≤ 4) := by
  unfold classify at h
  split at h
  next => cases h
  next hz =>
    refine ⟨not_not.mp hz, ?_⟩
    split at h
    next hrow =>
      split at h <;> cases h
      exact ⟨hrow, fun _ => by omega⟩
    next hne hrow =>
      cases h
      exact ⟨hrow, fun ho => absurd ho hne⟩
    next => split at h <;> cases h

/-- A word that classifies is one of its row: the row's opcode, and operands with no unused bit set (R83, R91). -/
theorem fields_of_classify {w : Word} {o : Opc} (h : classify w = .ok o) :
    ∃ r ∈ rows, r.opc = o ∧ ∃ a imm, w = mkWord (wordOpc r.pattern) a imm ∧ a &&& wordA r.mask = 0 ∧
      imm &&& wordImm r.mask = 0 := by
  obtain ⟨hz, hrow, -⟩ := classify_ok h
  rw [eq_mkWord_of_wordZ hz, findRow_mkWord] at hrow
  obtain ⟨r, hfind, hopc⟩ := Option.map_eq_some_iff.mp hrow
  have hfields := List.find?_some hfind
  simp only [Bool.and_eq_true, beq_iff_eq] at hfields
  obtain ⟨hcode, ha, himm⟩ := hfields
  exact ⟨r, List.mem_of_find?_eq_some hfind, hopc, _, _, hcode ▸ eq_mkWord_of_wordZ hz, ha, himm⟩

theorem dataCount_of_ne {w : Word} {o : Opc} (h : classify w = .ok o) (ho : o ≠ .cpypar) : dataCount w = 0 := by
  unfold dataCount
  split
  next hc => exact absurd (Except.ok.inj (h.symm.trans hc)) ho
  next => rfl

theorem dataCount_cpypar {w : Word} (h : classify w = .ok .cpypar) : dataCount w = copySize w := by
  simp only [dataCount, h]

/-! Operands with no unused bit set are those that the encoder writes (R85 to R88). -/

theorem eq_zero_of_and_allOnes {n : Nat} {x : BitVec n} (h : x &&& BitVec.allOnes n = 0) : x = 0 := by
  simpa using h

/-- An operand whose bits from `n` up are zero is its low `n` bits. -/
theorem setWidth_setWidth_of_and {m : Nat} {a : BitVec m} (n : Nat) (h : a &&& BitVec.allOnes m <<< n = 0) :
    (a.setWidth n).setWidth m = a := by
  apply BitVec.eq_of_getLsbD_eq
  intro k hk
  have hbit := congrArg (·.getLsbD k) h
  simp [hk] at hbit ⊢
  grind

theorem code_operand {a : Byte} (h : a &&& 0xF0 = 0) : (Fn.ofCode (a.setWidth 4)).code.setWidth 8 = a := by
  rw [code_ofCode]
  exact setWidth_setWidth_of_and 4 h

theorem mode_operand {a : Byte} (h : a &&& 0xFE = 0) :
    (BitVec.ofBool (Mode.ofBit (a.getLsbD 0)).bit).setWidth 8 = a := by
  rw [bit_ofBit, ← BitVec.setWidth_one]
  exact setWidth_setWidth_of_and 1 h

theorem idx_operand {a : Byte} (h : a &&& 0xFC = 0) : BitVec.ofNat 8 (a.setWidth 2).toFin.val = a :=
  (BitVec.ofNat_toNat 8 (a.setWidth 2)).trans (setWidth_setWidth_of_and 2 h)

theorem size_operand {a : Byte} (imm : Half16) (h : a &&& 0xF8 = 0) :
    BitVec.ofNat 8 (copySize (mkWord 0x5 a imm)) = a := by
  rw [copySize, extract_a_mkWord 3 (by decide), BitVec.ofNat_toNat]
  exact setWidth_setWidth_of_and 3 h

/-- A data word with a zero upper half is its value (R82 format D, R88). -/
theorem dataWord_of_upper {d : Word} (h : d.extractLsb' 16 16 = 0) : (wordImm d).setWidth 32 = d := by
  apply BitVec.eq_of_getLsbD_eq
  intro k hk
  have hbit := congrArg (·.getLsbD (k - 16)) h
  simp [wordImm, hk] at hbit ⊢
  grind

/-- A first word that classifies is the encoding of a command, unless it is a CPYPAR header (R83). -/
theorem exists_encode_of_classify {w : Word} {o : Opc} (h : classify w = .ok o) (ho : o ≠ .cpypar) :
    ∃ i : Instr, i.wf = true ∧ encode i = [w] := by
  obtain ⟨r, hr, rfl, a, imm, rfl, ha, himm⟩ := fields_of_classify h
  simp only [rows, List.mem_cons, List.not_mem_nil, or_false] at hr
  obtain rfl | rfl | rfl | rfl | rfl | rfl | rfl | rfl | rfl | rfl | rfl := hr
  · obtain rfl := eq_zero_of_and_allOnes himm
    exact ⟨.init a, rfl, rfl⟩
  · obtain rfl := eq_zero_of_and_allOnes himm
    exact ⟨.setfn (Fn.ofCode (a.setWidth 4)), rfl, by rw [encode, code_operand ha]; rfl⟩
  · obtain rfl := eq_zero_of_and_allOnes himm
    exact ⟨.setmode (Mode.ofBit (a.getLsbD 0)), rfl, by rw [encode, mode_operand ha]; rfl⟩
  · exact ⟨.setpar (a.setWidth 2).toFin imm, rfl, by rw [encode, idx_operand ha]; rfl⟩
  · exact absurd rfl ho
  · obtain rfl := eq_zero_of_and_allOnes himm
    exact ⟨.proc a, rfl, rfl⟩
  · obtain rfl := eq_zero_of_and_allOnes himm
    obtain rfl := eq_zero_of_and_allOnes ha
    exact ⟨.buf, rfl, rfl⟩
  · obtain rfl := eq_zero_of_and_allOnes himm
    obtain rfl := eq_zero_of_and_allOnes ha
    exact ⟨.cfg, rfl, rfl⟩
  · obtain rfl := eq_zero_of_and_allOnes ha
    exact ⟨.qnt imm, rfl, rfl⟩
  · obtain rfl := eq_zero_of_and_allOnes himm
    obtain rfl := eq_zero_of_and_allOnes ha
    exact ⟨.ledf, rfl, rfl⟩
  · obtain rfl := eq_zero_of_and_allOnes himm
    obtain rfl := eq_zero_of_and_allOnes ha
    exact ⟨.ledn, rfl, rfl⟩

/-- A word that classifies as CPYPAR is the header of its size (R88). -/
theorem cpypar_header {w : Word} (h : classify w = .ok .cpypar) : w = mkWord 0x5 (BitVec.ofNat 8 (copySize w)) 0 := by
  have hrow : ∀ r ∈ rows, r.opc = .cpypar → r = ⟨.cpypar, 0xFFF8FFFF, 0x50000000⟩ := by decide
  obtain ⟨r, hr, hopc, a, imm, rfl, ha, himm⟩ := fields_of_classify h
  obtain rfl := hrow r hr hopc
  obtain rfl := eq_zero_of_and_allOnes himm
  exact congrArg (mkWord 0x5 · 0) (size_operand 0 ha).symm

/-- A CPYPAR header with as many data words as it asks for, each with a zero upper half, is the encoding of the values
in those words (R88). -/
theorem encode_cpypar {w : Word} {ds : List Word} (hclass : classify w = .ok .cpypar) (hlen : ds.length = copySize w)
    (hupper : ∀ d ∈ ds, d.extractLsb' 16 16 = 0) : encode (.cpypar (ds.map wordImm)) = w :: ds := by
  have hdata : (ds.map wordImm).map (BitVec.setWidth 32) = ds := by
    rw [List.map_map]
    exact (List.map_congr_left fun d hd => dataWord_of_upper (hupper d hd)).trans (List.map_id ds)
  rw [encode, hdata, List.length_map, hlen, ← cpypar_header hclass]

/-- The words that decode are the words of an encoding. -/
theorem exists_encode_of_decodeCommand {w : Word} {ds : List Word} {i : Instr} (hlen : ds.length = dataCount w)
    (h : decodeCommand w ds = .ok i) : ∃ i : Instr, i.wf = true ∧ encode i = w :: ds := by
  cases hclass : classify w with
  | error r => simp [decodeCommand, hclass] at h
  | ok o =>
    by_cases ho : o = .cpypar
    · subst ho
      rw [dataCount_cpypar hclass] at hlen
      rw [decodeCommand_cpypar ds hclass] at h
      split at h
      next hupper =>
        obtain ⟨-, -, hsize⟩ := classify_ok hclass
        have hwf : (ds.map wordImm).length ≤ 4 := by simpa [hlen] using hsize rfl
        exact ⟨.cpypar (ds.map wordImm), decide_eq_true hwf, encode_cpypar hclass hlen hupper⟩
      next => cases h
    · obtain rfl := List.eq_nil_of_length_eq_zero (hlen.trans (dataCount_of_ne hclass ho))
      exact exists_encode_of_classify hclass ho

/-- Settles O2: words that decode encode some command, and by `decodeCommand_of_encode` it is the one they decode to. -/
theorem decodedWordsAreTheEncoding : Obligations.DecodedWordsAreTheEncoding := by
  intro i ws h
  obtain ⟨w, ds, rest, rfl, hlen, hcommand⟩ := decode_ok h
  obtain ⟨j, hwf, hwords⟩ := exists_encode_of_decodeCommand hlen hcommand
  obtain rfl : j = i := Except.ok.inj ((decodeCommand_of_encode hwf hwords).symm.trans hcommand)
  exact ⟨hwf, rest, by rw [hwords, List.cons_append]⟩

/-- Settles O3: each example is the encoding of its command. -/
theorem specExampleWordsDecode : Obligations.SpecExampleWordsDecode :=
  ⟨decodeOfEncodedCommand (.init 1) [] rfl, decodeOfEncodedCommand (.setfn (.pal .a)) [] rfl,
    decodeOfEncodedCommand (.setmode .half) [] rfl, decodeOfEncodedCommand (.setpar 2 0xBEEF) [] rfl,
    decodeOfEncodedCommand (.cpypar [0x1000, 0xFFFF]) [] rfl, decodeOfEncodedCommand (.proc 0x03) [] rfl,
    decodeOfEncodedCommand .buf [] rfl, decodeOfEncodedCommand .cfg [] rfl, decodeOfEncodedCommand (.qnt 10000) [] rfl,
    decodeOfEncodedCommand .ledf [] rfl, decodeOfEncodedCommand .ledn [] rfl⟩

end Sys2Proof

/-! PROC of an in-scope function reads three bits of the control byte (30_encoding.md rules R92 and R93). -/

namespace Sys2Proof.Machine

/-- The two control bytes carry the same gate-1 edge, gate-2 level and gate-2 edge: the flags an in-scope function
reads (R92). -/
abbrev SameGates (c d : Byte) : Prop :=
  gate1Rise c = gate1Rise d ∧ gate2 c = gate2 d ∧ gate2Rise c = gate2Rise d

theorem sameGates_of_extract {c d : Byte} (h : c.extractLsb' 0 4 = d.extractLsb' 0 4) : SameGates c d := by
  have hbit : ∀ k < 4, c.getLsbD k = d.getLsbD k := by
    intro k hk
    simpa [hk] using congrArg (·.getLsbD k) h
  exact ⟨hbit 1 (by decide), hbit 2 (by decide), hbit 3 (by decide)⟩

theorem rizmProcess_congr (p : Params) {c d : Byte} (h : SameGates c d) (r : Rizm) :
    rizmProcess p c r = rizmProcess p d r := by
  obtain ⟨hrise, -, hreset⟩ := h
  have hstep : rizmStep c r.step = rizmStep d r.step := by simp only [rizmStep, hrise, hreset]
  simp only [rizmProcess, hstep]

theorem palProcess_congr (p : Params) (v : PalVariant) {c d : Byte} (h : SameGates c d) (q : Pal) :
    palProcess p v c q = palProcess p v d q := by
  obtain ⟨hrise, hgate2, hrise2⟩ := h
  have hadvance : ∀ q, palAdvance v c q = palAdvance v d q := fun q => by simp only [palAdvance, hrise]
  have hwrite : ∀ q, palGate2 v c q = palGate2 v d q := fun q => by simp only [palGate2, hgate2, hrise2]
  simp only [palProcess, hadvance, hwrite]

theorem bmProcess_congr (p : Params) (v : BmVariant) {c d : Byte} (h : SameGates c d) (b : Bm) :
    bmProcess p v c b = bmProcess p v d b := by
  obtain ⟨hrise, -, hrise2⟩ := h
  have hgate2 : ∀ b, bmGate2 p v c b = bmGate2 p v d b := fun b => by simp only [bmGate2, hrise2]
  have hgate1 : ∀ b, bmGate1 p v c b = bmGate1 p v d b := fun b => by simp only [bmGate1, hrise]
  simp only [bmProcess, hgate2, hgate1]

theorem execProc_congr {s : State} {c d : Byte} (hf : ∀ k, s.func ≠ .ext k) (h : SameGates c d) :
    execProc c s = execProc d s := by
  cases hfunc : s.func with
  | rizm => rw [execProc_rizm c hfunc, execProc_rizm d hfunc, rizmProcess_congr s.params h]
  | pal v => rw [execProc_pal c hfunc, execProc_pal d hfunc, palProcess_congr s.params v h]
  | bm v => rw [execProc_bm c hfunc, execProc_bm d hfunc, bmProcess_congr s.params v h]
  | ext k => exact absurd hfunc (hf k)

/-- Settles O37: of the control byte, a tick of each family reads gate flags in bits 3:0 only. -/
theorem reservedControlBitsIgnored : Obligations.ReservedControlBitsIgnored :=
  ⟨fun c => decodeOfEncodedCommand (.proc c) [] rfl, fun _ _ _ hf h => execProc_congr hf (sameGates_of_extract h)⟩

end Sys2Proof.Machine

/-! The effective vector, and what a CFG in HALF mode derives from the HALF default table (30_encoding.md rules R97 and
R98). -/

namespace Sys2Proof.Machine

/-- In HALF mode the last two entries stand for the row's two defaults (R97). -/
theorem effective_half_default (row : HalfRow) (p : Knobs) :
    (effective .half row p)[2] = HalfDefault.value row.e2 p ∧
      (effective .half row p)[3] = HalfDefault.value row.e3 p :=
  ⟨rfl, rfl⟩

/-- Settles O17. -/
theorem effectiveVectorByMode : Obligations.EffectiveVectorByMode := by
  refine ⟨fun row p => ?vector, fun _ => ?rows, ?reference⟩
  case vector =>
    obtain ⟨h2, h3⟩ := effective_half_default row p
    refine ⟨rfl, rfl, rfl, fun c hc => ?_, fun j hj => ?_, fun c hc => ?_, fun j hj => ?_⟩
    · rw [h2, hc, HalfDefault.value]
    · rw [h2, hj, HalfDefault.value]
    · rw [h3, hc, HalfDefault.value]
    · rw [h3, hj, HalfDefault.value]
  case rows => exact ⟨rfl, rfl, rfl, rfl, rfl, rfl, rfl⟩
  case reference => rfl

/-! CFG by the active in-scope function (R235, R236). -/

theorem execCfg_rizm {s : State} (hf : s.func = .rizm) :
    execCfg s = .next (({ s with
      rizm := rizmConfigure (effective s.mode s.params.half.rizm s.p) s.rizm } : State).respond 0) := by
  simp only [execCfg, State.dispatched, State.configure, policy, hf, State.selectable, configureFn, if_true]

theorem execCfg_pal {s : State} {v : PalVariant} (hf : s.func = .pal v) :
    execCfg s = .next (({ s with
      pal := palConfigure (effective s.mode (HalfTable.pal s.params.half v) s.p) s.pal } : State).respond 0) := by
  simp only [execCfg, State.dispatched, State.configure, policy, hf, State.selectable, configureFn, if_true]

theorem execCfg_bm {s : State} {v : BmVariant} (hf : s.func = .bm v) :
    execCfg s = .next (({ s with
      bm := bmConfigure v (effective s.mode (HalfTable.bm s.params.half v) s.p) s.bm } : State).respond 0) := by
  simp only [execCfg, State.dispatched, State.configure, policy, hf, State.selectable, configureFn, if_true]

/-! The snapshots of BM after a Configure (R198, R200). -/

/-- Whether the knob moved or not, its snapshot is the knob afterwards. -/
theorem bmLatch_snap (v : BmVariant) (e : Knobs) (b : Bm) (k : Fin 4) :
    (bmLatch v e b k).snap = b.snap.set k.val e[k.val] := by
  unfold bmLatch
  split
  next => rfl
  next hsame =>
    rw [not_not.mp hsame, Vector.set_getElem_self]

theorem foldl_bmLatch_snap (v : BmVariant) (e : Knobs) (j : Fin 4) (l : List (Fin 4)) (b : Bm) :
    (l.foldl (bmLatch v e) b).snap[j.val] = if j ∈ l then e[j.val] else b.snap[j.val] := by
  induction l generalizing b with
  | nil => rfl
  | cons k l ih =>
    rw [List.foldl_cons, ih, bmLatch_snap, Vector.getElem_set]
    grind

/-- The slots of the variant record their knob, the others keep what they had (R198). -/
theorem bmConfigure_snap (v : BmVariant) (e : Knobs) (b : Bm) (j : Fin 4) :
    (bmConfigure v e b).snap[j.val] = if j ∈ bmSlots v then e[j.val] else b.snap[j.val] :=
  foldl_bmLatch_snap v e j (bmSlots v) b

/-- Every variant has a value knob in each slot, but `BM_D` none in slot 3 (R192). -/
theorem mem_bmSlots (v : BmVariant) (k : Fin 4) : k ∈ bmSlots v ↔ v ≠ .d ∨ k ≠ 3 := by
  revert k
  cases v <;> decide

/-- The row of R98 that `BM_A`, `BM_B` and `BM_C` share. -/
theorem reference_bm_of_ne {v : BmVariant} (hv : v ≠ .d) : HalfTable.bm HalfTable.reference v = ⟨.mir 0, .mir 1⟩ := by
  cases v with
  | d => exact absurd rfl hv
  | _ => rfl

/-- Settles O53: per function, the registers that Configure derives from the defaults in its row of the table. -/
theorem halfModeDefaultsByFunction : Obligations.HalfModeDefaultsByFunction := by
  intro s hmode htable
  refine ⟨fun hf => ⟨_, execCfg_rizm hf, ?rizm⟩, fun hf => ⟨_, execCfg_pal hf, ?palW⟩,
    fun hf => ⟨_, execCfg_pal hf, ?palA⟩, fun hf => ⟨_, execCfg_pal hf, ?palC⟩,
    fun v hv hf => ⟨_, execCfg_bm hf, ?bm⟩, fun hf => ⟨_, execCfg_bm hf, ?bmD⟩⟩ <;> rw [hmode, htable]
  case rizm =>
    show halved 0x8000 = 16384 ∧ (bipolar 0xC000).toInt = 16384
    decide
  case palW =>
    show bipolar 0x8000 = 0 ∧ halved 0x8000 = 16384 ∧ halved 0x8000 = 16384
    decide
  case palA =>
    show bipolar 0x8000 = 0 ∧ halved 0x2000 = 4096
    decide
  case palC =>
    show halved s.p[1] = halved s.p[1] ∧ halved 0x8000 = 16384
    exact ⟨rfl, by decide⟩
  case bm =>
    rw [reference_bm_of_ne hv]
    exact ⟨(bmConfigure_snap v _ s.bm 2).trans (if_pos ((mem_bmSlots v 2).mpr (.inl hv))),
      (bmConfigure_snap v _ s.bm 3).trans (if_pos ((mem_bmSlots v 3).mpr (.inl hv)))⟩
  case bmD =>
    have hcount : BitVec.ofNat 5 (1 + (0xFFFF : Half16).toNat * 8 / 65536) = 8 := by decide
    exact ⟨(bmConfigure_snap .d _ s.bm 2).trans (if_pos (by decide)), hcount⟩

end Sys2Proof.Machine

/-! The Quantizer: what the levels and the buckets are, the sample a raw value is quantized to, and QNT (40_quantizer.md
rules R112 to R118). -/

namespace Sys2Proof.Machine

section
variable {p : Params}

/-! The levels (R112, R115). -/

theorem strictMono_qCoeff (hp : p.Wf) : StrictMono fun i : Fin 13 => p.qCoeff[i.val] := by
  obtain ⟨-, hstep, -⟩ := hp
  exact Fin.strictMono_iff_lt_succ.mpr hstep

/-- No level divides by 0: the last coefficient is above the first, which is 0. -/
theorem qCoeff_twelve_pos (hp : p.Wf) : 0 < p.qCoeff[12] :=
  Nat.zero_lt_of_lt (strictMono_qCoeff hp (show (0 : Fin 13) < 12 by decide))

theorem level_of_le {i : Nat} (hi : i ≤ 12) : level p i = p.qCoeff[i] * p.qFsv.toNat / p.qCoeff[12] := by
  rw [level, dif_pos (Nat.lt_succ_of_le hi)]

theorem level_zero (hp : p.Wf) : level p 0 = 0 := by
  obtain ⟨hfirst, -⟩ := hp
  rw [level_of_le (Nat.zero_le 12), hfirst, Nat.zero_mul, Nat.zero_div]

theorem level_twelve (hp : p.Wf) : level p 12 = p.qFsv.toNat := by
  rw [level_of_le le_rfl, Nat.mul_div_cancel_left _ (qCoeff_twelve_pos hp)]

theorem level_mono (hp : p.Wf) {i j : Nat} (hij : i ≤ j) (hj : j ≤ 12) : level p i ≤ level p j := by
  have hcoeff : p.qCoeff[i] ≤ p.qCoeff[j] :=
    (strictMono_qCoeff hp).monotone (show (⟨i, by omega⟩ : Fin 13) ≤ ⟨j, by omega⟩ from hij)
  rw [level_of_le (hij.trans hj), level_of_le hj]
  exact Nat.div_le_div_right (Nat.mul_le_mul_right _ hcoeff)

theorem level_le_qFsv (hp : p.Wf) {i : Nat} (hi : i ≤ 12) : level p i ≤ p.qFsv.toNat :=
  level_twelve hp ▸ level_mono hp hi le_rfl

/-! The buckets (R114). -/

theorem bucket_le (p : Params) (x : Half16) : bucket p x ≤ 12 := Nat.min_le_left _ _

theorem bucket_of_toInt_eq_zero (p : Params) {x : Half16} (h : x.toInt = 0) : bucket p x = 0 := by simp [bucket, h]

/-- The bucket reads the magnitude alone. -/
theorem bucket_mono {x z : Half16} (h : x.toInt.natAbs ≤ z.toInt.natAbs) : bucket p x ≤ bucket p z :=
  min_le_min_left 12 (Nat.div_le_div_right h)

theorem bucket_of_twelve_le (hp : p.Wf) {x : Half16} (h : 12 * p.qBucket ≤ x.toInt.natAbs) : bucket p x = 12 := by
  obtain ⟨-, -, -, hpos, -⟩ := hp
  exact Nat.min_eq_left ((Nat.le_div_iff_mul_le hpos).mpr h)

/-! The quantized sample (R115). -/

/-- A level is at most `Q_FSV`, which has 15 bits, so both signs of it are stored exactly. -/
theorem quantize_toInt (hp : p.Wf) (x : Half16) :
    (quantize p x).toInt = if x.toInt < 0 then -(level p (bucket p x) : Int) else level p (bucket p x) := by
  have hle := level_le_qFsv hp (bucket_le p x)
  have hfsv := p.qFsv.isLt
  unfold quantize
  split <;> exact int16_toInt (by omega)

theorem quantize_natAbs (hp : p.Wf) (x : Half16) : (quantize p x).toInt.natAbs = level p (bucket p x) := by
  rw [quantize_toInt hp]
  split <;> simp

theorem quantize_zero (hp : p.Wf) : quantize p 0 = 0 := by
  apply BitVec.eq_of_toInt_eq
  rw [quantize_toInt hp, bucket_of_toInt_eq_zero p rfl, level_zero hp]
  rfl

/-- -32768 is the one value without a negative. -/
theorem half16_toInt_neg {x : Half16} (hx : x.toInt ≠ -32768) : (-x).toInt = -x.toInt :=
  BitVec.toInt_neg_of_ne_intMin fun h => hx (h ▸ rfl)

/-- On 0, where negating does not change the sign the Quantizer reads, the level is 0 (R116). -/
theorem quantize_neg (hp : p.Wf) {x : Half16} (hx : x.toInt ≠ -32768) :
    (quantize p (-x)).toInt = -(quantize p x).toInt := by
  have hneg := half16_toInt_neg hx
  have hbucket : bucket p (-x) = bucket p x := by rw [bucket, bucket, hneg, Int.natAbs_neg]
  have hzero : x.toInt = 0 → level p (bucket p x) = 0 := fun h => by rw [bucket_of_toInt_eq_zero p h, level_zero hp]
  rw [quantize_toInt hp, quantize_toInt hp, hneg, hbucket]
  split <;> split <;> omega

theorem quantize_of_twelve_le (hp : p.Wf) {x : Half16} (h : 12 * p.qBucket ≤ x.toInt.natAbs) :
    (quantize p x).toInt = if x.toInt < 0 then -(p.qFsv.toNat : Int) else p.qFsv.toNat := by
  rw [quantize_toInt hp, bucket_of_twelve_le hp h, level_twelve hp]

end

/-- Settles O47: the magnitude of the sample is the level of the bucket, and both grow with the magnitude. -/
theorem quantizerSymmetryAndMonotonicity : Obligations.QuantizerSymmetryAndMonotonicity := by
  intro p hp
  refine ⟨quantize_zero hp, fun x hx => quantize_neg hp hx, fun x z h => ?monotone, fun x => ?bound,
    fun x h => quantize_of_twelve_le hp h⟩
  case monotone =>
    rw [quantize_natAbs hp, quantize_natAbs hp]
    exact level_mono hp (bucket_mono h) (bucket_le p z)
  case bound =>
    rw [quantize_natAbs hp]
    exact level_le_qFsv hp (bucket_le p x)

/-- QNT does not dispatch on `FUNC` (R118). -/
theorem exec_qnt (raw : Half16) (s : State) : exec (.qnt raw) s = .next (s.respond (quantize s.params raw)) := rfl

/-- Settles O46: the answer of QNT is the quantized operand. -/
theorem qntAnswersBucketLevel : Obligations.QntAnswersBucketLevel := by
  intro s raw hp
  have hi := bucket_le s.params raw
  refine ⟨⟨bucket s.params raw, Nat.lt_succ_of_le hi⟩, quantize s.params raw, exec_qnt raw s, rfl, ?_⟩
  rw [quantize_toInt hp, level_of_le hi]
  split <;> simp

end Sys2Proof.Machine

/-! What Configure derives for RIZM and PAL, in numbers, and the commands CFG and SETFN that run it
(41_pattern_generator.md rules R132 and R133; 42_accent_sequencer.md rule R156; 44_processor_engine.md rules R235 to
R238, R262). -/

namespace Sys2Proof.Machine

/-! The derived registers. -/

/-- A 16-bit knob times 25 is below `25 * 2^16`, so the bound 24 of R133 never acts. -/
theorem rizmSelect_toNat (e : Half16) : (rizmSelect e).toNat = e.toNat * 25 / 65536 := by
  have hknob := e.isLt
  rw [rizmSelect, BitVec.toNat_ofNat, Nat.min_eq_right (by omega), Nat.mod_eq_of_lt (by omega)]

theorem rizmConfigure_derived (e : Knobs) (r : Rizm) :
    (rizmConfigure e r).selA.toNat = e[0].toNat * 25 / 65536 ∧
      (rizmConfigure e r).selB.toNat = e[1].toNat * 25 / 65536 ∧
      (rizmConfigure e r).bal.toNat = e[2].toNat / 2 ∧
      (rizmConfigure e r).lvl.toInt = (e[3].toNat : Int) - 32768 :=
  ⟨rizmSelect_toNat e[0], rizmSelect_toNat e[1], halved_toNat e[2], bipolar_toInt e[3]⟩

/-- The count is 1 to 16, which its five bits hold. -/
theorem palConfigure_count (e : Knobs) (q : Pal) : (palConfigure e q).count.toNat = 1 + e[0].toNat / 4096 := by
  have hknob := e[0].isLt
  exact Nat.mod_eq_of_lt (by omega)

theorem palConfigure_derived (e : Knobs) (q : Pal) :
    (palConfigure e q).count.toNat = 1 + e[0].toNat / 4096 ∧
      (palConfigure e q).s1.toInt = (e[1].toNat : Int) - 32768 ∧
      (palConfigure e q).offset.toInt = (e[2].toNat : Int) - 32768 ∧
      (palConfigure e q).metro.toNat = e[3].toNat / 2 ∧
      (palConfigure e q).compose.toNat = e[1].toNat / 2 ∧
      (palConfigure e q).decompose.toNat = e[2].toNat / 2 :=
  ⟨palConfigure_count e q, bipolar_toInt e[1], bipolar_toInt e[2], halved_toNat e[3], halved_toNat e[1],
    halved_toNat e[2]⟩

/-- Settles O18: Configure writes the registers above, and no other of the function's registers. -/
theorem cfgDerivesRizmAndPal : Obligations.CfgDerivesRizmAndPal := by
  refine ⟨fun s hf => ⟨_, execCfg_rizm hf, ?rizm⟩, fun s v hf => ⟨_, execCfg_pal hf, ?pal⟩⟩
  case rizm => exact ⟨rfl, rizmConfigure_derived _ s.rizm⟩
  case pal =>
    obtain ⟨hidx, hlastW, hheld, hval⟩ :=
      palConfigure_sameRun (effective s.mode (HalfTable.pal s.params.half v) s.p) s.pal
    exact ⟨hval, hidx, hlastW, hheld, palConfigure_derived _ s.pal⟩

/-! SETFN. -/

/-- SETFN of a selectable function: its init and then its Configure, whatever was active before (R238). -/
theorem execSetfn_of_selectable {s : State} {f : Fn} (hsel : s.selectable f = true) :
    execSetfn f s = .next ((configureFn f (initFn f { s with func := f }).flush).respond 0) := by
  rw [execSetfn, if_pos hsel, State.configure, policy, State.flush_func, initFn_func]

/-- A present slot that is initialised and then configured (R238, R262). -/
theorem updateExt_init_configure {x : Vector (Option ExtInst) 8} {k : Fin 8} {i : ExtInst} (hx : x[k.val] = some i)
    (chan : Byte) (p : Knobs) (m : Mode) :
    (updateExt (updateExt x k fun _ => Config.extInit k chan) k (extConfigure k p m))[k.val] =
      some { i with st := extConfigure k p m (Config.extInit k chan) } := by
  rw [getElem_updateExt, if_pos rfl, getElem_updateExt, if_pos rfl, hx]
  rfl

/-- Settles O15: init clears the step, which Configure keeps, and Configure derives the rest. -/
theorem setfnRizmAndExtInitialise : Obligations.SetfnRizmAndExtInitialise := by
  refine ⟨fun s => ⟨_, execSetfn_of_selectable rfl, ?rizm⟩, fun s k x hx => ?ext⟩
  case rizm => exact ⟨configureFn_rizm_step .rizm _, rizmConfigure_derived _ (rizmInit s.rizm)⟩
  case ext =>
    have hsel : s.selectable (.ext k) = true := by rw [State.selectable, hx, Option.isSome_some]
    exact ⟨_, execSetfn_of_selectable hsel, updateExt_init_configure hx s.chan s.p s.mode⟩

end Sys2Proof.Machine

/-! A tick of the PatternGenerator: the step it moves to, the bit of a pattern at a step, and the sample
(41_pattern_generator.md rules R134 to R139). -/

namespace Sys2Proof.Machine

/-- The gate-2 reset comes after the gate-1 increment and wins over it (R137). -/
theorem rizmStep_toNat (c : Byte) (i : BitVec 3) :
    (rizmStep c i).toNat = if gate2Rise c then 0 else if gate1Rise c then (i.toNat + 1) % 8 else i.toNat := by
  have hstep : (if gate1Rise c then i + 1 else i).toNat = if gate1Rise c then (i.toNat + 1) % 8 else i.toNat := by
    split
    next => exact BitVec.toNat_add i 1
    next => rfl
  unfold rizmStep
  cases gate2Rise c with
  | true => rfl
  | false => exact hstep

theorem rizmHalf_eq_getD (t : Vector (BitVec 4) 5) (d : Nat) : rizmHalf t d = t.toList.getD d 0 := by
  by_cases hd : d < 5 <;> simp [rizmHalf, hd]

/-- The first four steps read the sub-pattern of the high digit, the last four that of the low digit, each from its most
significant bit down (R134, R136). -/
theorem rizmActive_rizmMask (t : Vector (BitVec 4) 5) (c : Nat) {i : Nat} (hi : i < 8) :
    rizmActive (rizmMask t c) i = (t.toList.getD (if i < 4 then c / 5 else c % 5) 0).getLsbD (3 - i % 4) := by
  rw [rizmActive, rizmMask, BitVec.getLsbD_append, rizmHalf_eq_getD, rizmHalf_eq_getD]
  by_cases hfirst : i < 4
  · have hbit : 7 - i - 4 = 3 - i % 4 := by omega
    rw [if_neg (by omega), if_pos hfirst, hbit]
  · have hbit : 7 - i = 3 - i % 4 := by omega
    rw [if_pos (by omega), if_neg hfirst, hbit]

/-- The sample is the sum of the two contributions, saturated once (R138, R139). -/
theorem rizmOutput_toInt (p : Params) (r : Rizm) :
    (rizmOutput p r).toInt = max (-32768) (min 32767
      ((if rizmActive (rizmMask p.rizmSubA r.selA.toNat) r.step.toNat then
          (if r.step.toNat < 4 then 32767 - (r.bal.toNat : Int) else r.bal.toNat) else 0) +
        (if rizmActive (rizmMask p.rizmSubB r.selB.toNat) r.step.toNat then r.lvl.toInt else 0))) := by
  rw [rizmOutput, int16_toInt (clip16_bounds _), clip16_eq]

/-- Settles O29: the sample is that of the registers with the step the tick moved to. -/
theorem procRizmSample : Obligations.ProcRizmSample := by
  intro s c hf
  have hlt : (rizmStep c s.rizm.step).toNat < 8 := (rizmStep c s.rizm.step).isLt
  refine ⟨⟨_, hlt⟩, (rizmProcess s.params c s.rizm).2, ?frame, rizmStep_toNat c s.rizm.step, ?sample⟩
  case frame =>
    rw [BitVec.ofNat_toNat, BitVec.setWidth_eq]
    exact execProc_rizm c hf
  case sample =>
    simp only [← rizmActive_rizmMask _ _ hlt]
    exact rizmOutput_toInt s.params _

end Sys2Proof.Machine

/-! A tick of the AccentSequencer, register by register: where it starts and arrives, what it writes there, and the
sample (42_accent_sequencer.md rules R158 to R177). -/

namespace Sys2Proof.Machine

/-! The index (R160, R161). -/

/-- The step a tick starts from: 0 where the index lies at or above the count (R160). -/
def palStart (q : Pal) : BitVec 4 := if q.count.toNat ≤ q.idx.toNat then 0 else q.idx

/-- The step a tick arrives at (R161). -/
def palArrive (c : Byte) (q : Pal) : BitVec 4 := if gate1Rise c then palNext q (palStart q) else palStart q

theorem palRevalidate_eq (q : Pal) : palRevalidate q = { q with idx := palStart q } := by
  unfold palRevalidate palStart
  split <;> rfl

theorem palStart_toNat (q : Pal) :
    (palStart q).toNat = if q.count.toNat ≤ q.idx.toNat then 0 else q.idx.toNat := by
  unfold palStart
  split <;> rfl

theorem palStart_of_lt {q : Pal} (h : q.idx.toNat < q.count.toNat) : palStart q = q.idx := if_neg (Nat.not_le.mpr h)

/-- No wrap of the four index bits happens below a count of at most 16. -/
theorem palNext_toNat {q : Pal} (i : BitVec 4) (h : q.count.toNat ≤ 16) :
    (palNext q i).toNat = if q.count.toNat ≤ i.toNat + 1 then 0 else i.toNat + 1 := by
  unfold palNext
  split
  next => rfl
  next hlt =>
    rw [BitVec.toNat_add]
    exact Nat.mod_eq_of_lt (by change i.toNat + 1 < 16; omega)

theorem palArrive_toNat {q : Pal} (c : Byte) (h : q.Inv) :
    (palArrive c q).toNat =
      if gate1Rise c then (if q.count.toNat ≤ (palStart q).toNat + 1 then 0 else (palStart q).toNat + 1)
      else (palStart q).toNat := by
  obtain ⟨-, hcount, -⟩ := h
  unfold palArrive
  split
  next => exact palNext_toNat _ hcount
  next => rfl

/-- From an index below the count, an edge counts modulo the count (R161). -/
theorem palArrive_mod {q : Pal} (c : Byte) (h : q.Inv) (hidx : q.idx.toNat < q.count.toNat) :
    (palArrive c q).toNat = (q.idx.toNat + (if gate1Rise c then 1 else 0)) % q.count.toNat := by
  rw [palArrive_toNat c h, palStart_of_lt hidx]
  split
  next =>
    split
    next hwrap => rw [show q.idx.toNat + 1 = q.count.toNat by omega, Nat.mod_self]
    next => rw [Nat.mod_eq_of_lt (by omega)]
  next => rw [Nat.add_zero, Nat.mod_eq_of_lt hidx]

theorem palStart_settled (q : Pal) : palStart q = 0 ∨ (palStart q).toNat < q.count.toNat := by
  unfold palStart
  split
  next => exact .inl rfl
  next hlt => exact .inr (Nat.lt_of_not_le hlt)

theorem palNext_settled (q : Pal) (i : BitVec 4) : palNext q i = 0 ∨ (palNext q i).toNat < q.count.toNat := by
  unfold palNext
  split
  next => exact .inl rfl
  next hlt =>
    have hsucc : (i + 1).toNat ≤ i.toNat + 1 := (BitVec.toNat_add i 1).trans_le (Nat.mod_le _ _)
    exact .inr (by omega)

theorem palArrive_settled (c : Byte) (q : Pal) : palArrive c q = 0 ∨ (palArrive c q).toNat < q.count.toNat := by
  unfold palArrive
  split
  · exact palNext_settled q _
  · exact palStart_settled q

/-- The step arrived at needs no re-validation, whatever the count. -/
theorem palStart_of_arrive {q r : Pal} {c : Byte} (hidx : r.idx = palArrive c q) (hcount : r.count = q.count) :
    palStart r = r.idx := by
  obtain hzero | hlt := palArrive_settled c q
  · rw [palStart, hidx, hzero, ite_self]
  · exact palStart_of_lt (by rwa [hidx, hcount])

theorem palArrive_lt {q : Pal} (c : Byte) (h : q.Inv) : (palArrive c q).toNat < q.count.toNat := by
  obtain ⟨hpos, -⟩ := h
  obtain hzero | hlt := palArrive_settled c q
  · rw [hzero]
    exact hpos
  · exact hlt

/-! The step values. -/

/-- A saturated write to a step, read back as a number (R9, R61). -/
theorem readStep_writeStep_clip0 (x : List Half16) (i j : Nat) (a : Int) (h : i < x.length) :
    (readStep (writeStep x i (int16 (clip0 a))) j).toInt =
      if j = i then max 0 (min 32767 a) else (readStep x j).toInt := by
  have := clip0_bounds a
  rw [readStep_writeStep x i _ j h, apply_ite BitVec.toInt, int16_toInt (by omega), clip0_eq]
  exact if_congr eq_comm rfl rfl

theorem step_lt_length {q : Pal} (h : q.Inv) (i : BitVec 4) : i.toNat < q.val.length := by
  obtain ⟨-, -, -, hlen⟩ := h
  omega

/-- The step values once the tick has left its step: in variant C a step left by an edge without having been held
decays (R166). -/
def palLeave (v : PalVariant) (c : Byte) (q : Pal) : List Half16 :=
  match v with
  | .c =>
    if gate1Rise c = true ∧ q.held = false then
      writeStep q.val (palStart q).toNat
        (int16 (clip0 ((readStep q.val (palStart q).toNat).toInt - q.decompose.toNat)))
    else q.val
  | _ => q.val

/-- The step values after the whole tick of variant W: a gate-2 edge overwrites the step arrived at (R162). -/
def palWrite (c : Byte) (q : Pal) : List Half16 :=
  if gate2Rise c then writeStep q.val (palArrive c q).toNat q.s1 else q.val

/-- What variants A and C add to a step (R164, R167). -/
def palDelta (v : PalVariant) (q : Pal) : Int := if v = .a then q.s1.toInt else q.compose.toNat

/-- The step values after the whole tick of variants A and C: the step arrived at is accumulated in a window that has
not accumulated it last (R163). -/
def palCollect (v : PalVariant) (c : Byte) (q : Pal) : List Half16 :=
  if gate2 c = true ∧ q.lastW ≠ lastValid (palArrive c q) then
    writeStep (palLeave v c q) (palArrive c q).toNat
      (int16 (clip0 ((readStep (palLeave v c q) (palArrive c q).toNat).toInt + palDelta v q)))
  else palLeave v c q

/-- `PAL_HELD` after the tick: set by a high gate 2, else cleared by an edge, in variant C (R169). -/
def palHeld (v : PalVariant) (c : Byte) (q : Pal) : Bool :=
  match v with
  | .c => gate2 c || (!gate1Rise c && q.held)
  | _ => q.held

theorem readStep_palWrite {q : Pal} (c : Byte) (h : q.Inv) (j : Nat) :
    readStep (palWrite c q) j =
      if gate2Rise c = true ∧ j = (palArrive c q).toNat then q.s1 else readStep q.val j := by
  simp only [palWrite, apply_ite (readStep · j), readStep_writeStep _ _ _ _ (step_lt_length h _)]
  obtain rfl | hj := eq_or_ne j (palArrive c q).toNat
  · simp
  · simp [hj, hj.symm]

theorem length_palWrite (c : Byte) (q : Pal) : (palWrite c q).length = q.val.length := by
  unfold palWrite
  split
  · exact length_writeStep _ _ _
  · rfl

theorem length_palLeave (v : PalVariant) (c : Byte) (q : Pal) : (palLeave v c q).length = q.val.length := by
  cases v with
  | w => rfl
  | a => rfl
  | c =>
    simp only [palLeave]
    split
    · exact length_writeStep _ _ _
    · rfl

theorem length_palCollect (v : PalVariant) (c : Byte) (q : Pal) : (palCollect v c q).length = q.val.length := by
  unfold palCollect
  split
  · exact (length_writeStep _ _ _).trans (length_palLeave v c q)
  · exact length_palLeave v c q

theorem readStep_palLeave {q : Pal} (c : Byte) (h : q.Inv) (j : Nat) :
    (readStep (palLeave .c c q) j).toInt =
      if gate1Rise c = true ∧ q.held = false ∧ j = (palStart q).toNat then
        max 0 (min 32767 ((readStep q.val j).toInt - q.decompose.toNat))
      else (readStep q.val j).toInt := by
  simp only [palLeave, apply_ite (readStep · j), apply_ite BitVec.toInt,
    readStep_writeStep_clip0 _ _ _ _ (step_lt_length h _), ← and_assoc]
  by_cases hj : j = (palStart q).toNat <;> simp [hj]

theorem readStep_palCollect {q : Pal} (v : PalVariant) (c : Byte) (h : q.Inv) (j : Nat) :
    (readStep (palCollect v c q) j).toInt =
      if gate2 c = true ∧ q.lastW ≠ lastValid (palArrive c q) ∧ j = (palArrive c q).toNat then
        max 0 (min 32767 ((readStep (palLeave v c q) j).toInt + palDelta v q))
      else (readStep (palLeave v c q) j).toInt := by
  have hlen : (palArrive c q).toNat < (palLeave v c q).length :=
    length_palLeave v c q ▸ step_lt_length h _
  simp only [palCollect, apply_ite (readStep · j), apply_ite BitVec.toInt, readStep_writeStep_clip0 _ _ _ _ hlen,
    ← and_assoc]
  by_cases hj : j = (palArrive c q).toNat <;> simp [hj]

/-! The whole tick. -/

theorem palProcess_w (p : Params) (c : Byte) (q : Pal) :
    (palProcess p .w c q).1 =
      { q with
        idx := palArrive c q
        val := palWrite c q } := by
  simp only [palProcess, palRevalidate_eq, palAdvance, palGate2, palSet, palWrite, palArrive]
  cases gate1Rise c <;> cases gate2Rise c <;> rfl

/-- Leaving a step and arriving at the next. -/
theorem palAdvance_revalidate (v : PalVariant) (c : Byte) (q : Pal) :
    palAdvance v c (palRevalidate q) =
      { q with
        idx := palArrive c q
        val := palLeave v c q
        held := if v = .c ∧ gate1Rise c = true then false else q.held } := by
  rw [palRevalidate_eq]
  cases v with
  | w =>
    simp only [palAdvance, palArrive, palLeave]
    split <;> rfl
  | a =>
    simp only [palAdvance, palArrive, palLeave]
    split <;> rfl
  | c =>
    simp only [palAdvance, palArrive, palLeave]
    cases gate1Rise c <;> cases hheld : q.held <;> simp [palSet, palAt, palNext]

theorem palAccumulate_eq (delta : Int) (q : Pal) :
    palAccumulate delta q =
      { q with
        val := if q.lastW ≠ lastValid q.idx then
            writeStep q.val q.idx.toNat (int16 (clip0 (palAt q q.idx + delta))) else q.val
        lastW := lastValid q.idx } := by
  unfold palAccumulate
  split
  next => rfl
  next hlast => rw [← not_not.mp hlast]

/-- A tick of variants A and C (R158). -/
theorem palProcess_accumulating {v : PalVariant} (hv : v ≠ .w) (p : Params) (c : Byte) (q : Pal) :
    (palProcess p v c q).1 =
      { q with
        idx := palArrive c q
        val := palCollect v c q
        lastW := if gate2 c then lastValid (palArrive c q) else lastNone
        held := palHeld v c q } := by
  simp only [palProcess, palAdvance_revalidate]
  cases v with
  | w => exact absurd rfl hv
  | a => cases hgate : gate2 c <;> simp [palGate2, palAccumulate_eq, palCollect, palHeld, palDelta, palAt, hgate]
  | c => cases hgate : gate2 c <;> simp [palGate2, palAccumulate_eq, palCollect, palHeld, palDelta, palAt, hgate]

theorem palProcess_idx (p : Params) (v : PalVariant) (c : Byte) (q : Pal) :
    (palProcess p v c q).1.idx = palArrive c q := by
  cases v with
  | w => rw [palProcess_w]
  | a => rw [palProcess_accumulating (by decide)]
  | c => rw [palProcess_accumulating (by decide)]

/-- The ranges that hold whatever variant is active are kept (R30). -/
theorem palProcess_inv (p : Params) (v : PalVariant) (c : Byte) {q : Pal} (h : q.Inv) : (palProcess p v c q).1.Inv := by
  obtain ⟨hlo, hhi, hlast, hlen⟩ := h
  obtain ⟨hcount, -⟩ := palProcess_scalars p v c q
  refine ⟨hcount ▸ hlo, hcount ▸ hhi, ?window, (palProcess_length p v c q).symm ▸ hlen⟩
  by_cases hv : v = .w
  · rw [hv, palProcess_w]
    exact hlast
  · rw [palProcess_accumulating hv]
    cases gate2 c with
    | false => exact fun _ => rfl
    | true => exact fun hbit => absurd hbit (by simp [lastValid_valid])

/-! The sample (R174 to R177). -/

/-- The value of the current step before the scaling. -/
def palRaw (v : PalVariant) (q : Pal) : Int :=
  match v with
  | .w => max q.s1.toInt (palAt q q.idx)
  | .a => max (-32768) (min 32767 (palAt q q.idx + q.offset.toInt + palPulse q q.idx))
  | .c => palAt q q.idx

theorem palOutput_eq (p : Params) (v : PalVariant) (q : Pal) : palOutput p v q = scaleOut p.palScale (palRaw v q) := by
  cases v with
  | w =>
    have hpreview : (if palAt q q.idx < q.s1.toInt then q.s1.toInt else palAt q q.idx) = palRaw .w q := by
      rw [palRaw, max_def_lt]
      split <;> split <;> omega
    simp only [palOutput, hpreview]
  | a => simp only [palOutput, palRaw, clip16_eq]
  | c => rfl

theorem palRaw_bounds (v : PalVariant) (q : Pal) : -32768 ≤ palRaw v q ∧ palRaw v q ≤ 32767 := by
  have hstep : -32768 ≤ palAt q q.idx ∧ palAt q q.idx ≤ 32767 := half16_toInt_bounds _
  have hs1 := half16_toInt_bounds q.s1
  cases v <;> simp only [palRaw] <;> omega

/-- The scaling is exact for the ratio of R6, and wherever the result is an `int16` (R176). -/
theorem scaleOut_of_fits {scale x : Int} (hx : -32768 ≤ x ∧ x ≤ 32767)
    (h : scale = 40960 ∨ (-32768 ≤ x * scale / 65536 ∧ x * scale / 65536 ≤ 32767)) :
    (scaleOut scale x).toInt = x * scale / 65536 := by
  obtain rfl | hfits := h
  · exact (scaleOut_40960 hx).1
  · rw [scaleOut_toInt]
    omega

theorem palPulse_eq (q : Pal) (i : BitVec 4) :
    palPulse q i = if i.toNat = 0 then (q.metro.toNat : Int)
      else if q.count.toNat % 2 = 0 ∧ i.toNat = q.count.toNat / 2 then (q.metro.toNat / 2 : Nat) else 0 :=
  if_congr BitVec.toNat_eq rfl rfl

/-- `VALID(i)` as a number (R158). -/
theorem lastValid_eq (i : BitVec 4) : lastValid i = BitVec.ofNat 5 (16 + i.toNat) := by
  revert i
  decide

/-- A quantized sample is a level, with either sign (R210). -/
theorem quantize_bounds {p : Params} (hp : p.Wf) (x : Half16) :
    -(p.qFsv.toNat : Int) ≤ (quantize p x).toInt ∧ (quantize p x).toInt ≤ p.qFsv.toNat := by
  have hlevel := level_le_qFsv hp (bucket_le p x)
  have habs := quantize_natAbs hp x
  omega

/-! PROC. -/

theorem exec_proc_pal {s : State} {v : PalVariant} (c : Byte) (hf : s.func = .pal v) :
    exec (.proc c) s = .next { s with
      pal := (palProcess s.params v c s.pal).1
      rsp := some ⟨palOutput s.params v (palProcess s.params v c s.pal).1, false⟩ } :=
  execProc_pal c hf

/-- A tick that leaves the registers `q`, and its sample. -/
theorem exec_proc_pal_sample {s : State} {v : PalVariant} {c : Byte} {q : Pal} (hf : s.func = .pal v)
    (hq : (palProcess s.params v c s.pal).1 = q) :
    ∃ y : Half16, exec (.proc c) s = .next { s with pal := q, rsp := some ⟨y, false⟩ } ∧
      (s.params.palScale = 40960 ∨
          (-32768 ≤ palRaw v q * s.params.palScale / 65536 ∧ palRaw v q * s.params.palScale / 65536 ≤ 32767) →
        y.toInt = palRaw v q * s.params.palScale / 65536) := by
  subst hq
  refine ⟨_, exec_proc_pal c hf, fun h => ?_⟩
  rw [palOutput_eq]
  exact scaleOut_of_fits (palRaw_bounds v _) h

theorem exec_proc_bm {s : State} {v : BmVariant} (c : Byte) (hf : s.func = .bm v) :
    exec (.proc c) s = .next { s with
      bm := (bmProcess s.params v c s.bm).1
      rsp := some ⟨(bmProcess s.params v c s.bm).2, false⟩ } :=
  execProc_bm c hf

end Sys2Proof.Machine

/-! SETFN of the AccentSequencer, and what one PROC does and answers (42_accent_sequencer.md rules R155 to R177). -/

namespace Sys2Proof.Machine

/-- Settles O13: init clears the registers by which the function runs, and Configure keeps those and derives the
rest. -/
theorem setfnPalStartsClean : Obligations.SetfnPalStartsClean := by
  intro s v
  exact ⟨_, execSetfn_of_selectable rfl, rfl, rfl, rfl, rfl, palConfigure_derived _ (palInit s.params s.pal)⟩

/-- Settles O30: the step arrived at holds the strength after a gate-2 edge, and the preview reads it. -/
theorem procPalWSample : Obligations.ProcPalWSample := by
  intro s c hf hinv
  obtain ⟨y, hstep, hsample⟩ := exec_proc_pal_sample hf (palProcess_w s.params c s.pal)
  refine ⟨⟨(palArrive c s.pal).toNat, (palArrive c s.pal).isLt⟩, palWrite c s.pal, y, ?step, ?index,
    length_palWrite c s.pal, readStep_palWrite c hinv, hsample⟩
  case step =>
    rw [BitVec.ofNat_toNat, BitVec.setWidth_eq]
    exact hstep
  case index => exact palStart_toNat s.pal ▸ palArrive_toNat c hinv

/-- Settles O31: the offset and the reference pulse of the step arrived at are added to its value before the clip. -/
theorem procPalASample : Obligations.ProcPalASample := by
  intro s c hf hinv
  obtain ⟨y, hstep, hsample⟩ :=
    exec_proc_pal_sample hf (palProcess_accumulating (by decide) s.params c s.pal)
  refine ⟨⟨(palArrive c s.pal).toNat, (palArrive c s.pal).isLt⟩, palCollect .a c s.pal, y, ?step, ?index,
    length_palCollect .a c s.pal, ?values, ?sample⟩
  case step =>
    rw [← lastValid_eq, BitVec.ofNat_toNat, BitVec.setWidth_eq]
    exact hstep
  case index => exact palStart_toNat s.pal ▸ palArrive_toNat c hinv
  case values =>
    rw [← lastValid_eq]
    exact readStep_palCollect .a c hinv
  case sample =>
    simp only [palRaw, palPulse_eq] at hsample
    exact hsample

/-- Settles O32: the values after the tick are those after the decay, accumulated at the step arrived at. -/
theorem procPalCSample : Obligations.ProcPalCSample := by
  intro s c hf hinv
  obtain ⟨y, hstep, hsample⟩ :=
    exec_proc_pal_sample hf (palProcess_accumulating (by decide) s.params c s.pal)
  refine ⟨⟨(palStart s.pal).toNat, (palStart s.pal).isLt⟩, ⟨(palArrive c s.pal).toNat, (palArrive c s.pal).isLt⟩,
    palCollect .c c s.pal, y, ?step, palStart_toNat s.pal, palArrive_toNat c hinv, length_palCollect .c c s.pal,
    fun j => ?values, hsample⟩
  case step =>
    rw [← lastValid_eq, BitVec.ofNat_toNat, BitVec.setWidth_eq]
    exact hstep
  case values =>
    have hvalues := readStep_palCollect .c c hinv j
    rw [readStep_palLeave c hinv, lastValid_eq] at hvalues
    exact hvalues

/-- Settles O38: the scaling of a PAL sample and the levels of the Quantizer bound the two families' samples. -/
theorem sampleRanges : Obligations.SampleRanges := by
  intro s c hp
  refine ⟨fun v hf hscale => ?pal, fun v hf => ⟨_, _, exec_proc_bm c hf, rfl, rfl, quantize_bounds hp _⟩⟩
  case pal =>
    obtain ⟨y, hstep, hsample⟩ := exec_proc_pal_sample (c := c) hf rfl
    have hraw := palRaw_bounds v (palProcess s.params v c s.pal).1
    have hy := hsample (.inl hscale)
    rw [hscale] at hy
    exact ⟨_, y, hstep, rfl, by omega⟩

end Sys2Proof.Machine

/-! The gate-2 window of variants A and C: what the next tick does to registers that a tick with gate 2 high has left
(42_accent_sequencer.md rule R163). -/

namespace Sys2Proof.Machine

/-- What a tick with gate 2 high leaves: a step that needs no re-validation, accumulated last, and in variant C held. -/
def Pal.InWindow (v : PalVariant) (q : Pal) : Prop :=
  palStart q = q.idx ∧ q.lastW = lastValid q.idx ∧ (v = .c → q.held = true)

section
variable {v : PalVariant} {q : Pal} {c : Byte}

theorem palProcess_inWindow (p : Params) (hv : v ≠ .w) (hgate2 : gate2 c = true) :
    (palProcess p v c q).1.InWindow v := by
  rw [palProcess_accumulating hv]
  refine ⟨palStart_of_arrive rfl rfl, if_pos hgate2, ?held⟩
  rintro rfl
  simp [palHeld, hgate2]

/-- `NONE` is the valid pattern of no step (R158). -/
theorem lastNone_ne_lastValid (i : BitVec 4) : lastNone ≠ lastValid i := by
  revert i
  decide

theorem lastValid_injective : Function.Injective lastValid := by
  unfold Function.Injective
  decide

theorem palArrive_of_stay (hrise : gate1Rise c = false) : palArrive c q = palStart q := by
  simp [palArrive, hrise]

/-- With at least two active steps an edge arrives at another step. -/
theorem palArrive_ne_idx (hinv : q.Inv) (hcount : 2 ≤ q.count.toNat) (hstart : palStart q = q.idx)
    (hrise : gate1Rise c = true) : palArrive c q ≠ q.idx := by
  intro heq
  have harrive := palArrive_toNat c hinv
  rw [heq, hstart, if_pos hrise] at harrive
  split at harrive <;> omega

/-- With one active step the only step is step 0. -/
theorem palArrive_of_count_one (hinv : q.Inv) (hcount : q.count.toNat = 1) : palArrive c q = 0 := by
  have hlt := palArrive_lt c hinv
  exact BitVec.eq_of_toNat_eq (show (palArrive c q).toNat = 0 by omega)

/-- The sum of variants A and C, brought into 0 to 32767 (R165, R168). -/
def palAdd (v : PalVariant) (q : Pal) (x : Int) : Int := max 0 (min 32767 (x + palDelta v q))

theorem Pal.SameScalars.palAdd_eq {r : Pal} (h : r.SameScalars q) : palAdd v r = palAdd v q := by
  obtain ⟨-, hs1, -, -, hcompose, -⟩ := h
  funext x
  simp only [palAdd, palDelta, hs1, hcompose]

/-- Nothing decays where no edge leaves a step that was not held. -/
theorem palLeave_of_kept (hkept : v = .c → gate1Rise c = true → q.held = true) : palLeave v c q = q.val := by
  cases v with
  | w => rfl
  | a => rfl
  | c =>
    refine if_neg fun ⟨hrise, hheld⟩ => ?_
    exact Bool.noConfusion (hheld.symm.trans (hkept rfl hrise))

/-- A tick of an open window at a step not accumulated last adds to that step and writes no other. -/
theorem readStep_of_accumulate (p : Params) (hv : v ≠ .w) (hinv : q.Inv) (hgate2 : gate2 c = true)
    (hkept : v = .c → gate1Rise c = true → q.held = true) (hnew : q.lastW ≠ lastValid (palArrive c q)) (j : Nat) :
    (readStep (palProcess p v c q).1.val j).toInt =
      if j = (palArrive c q).toNat then palAdd v q (readStep q.val j).toInt else (readStep q.val j).toInt := by
  rw [palProcess_accumulating hv, readStep_palCollect v c hinv, palLeave_of_kept hkept]
  exact if_congr ⟨fun ⟨_, _, hj⟩ => hj, fun hj => ⟨hgate2, hnew, hj⟩⟩ rfl rfl

/-- A tick of the window that arrives at the step accumulated last changes nothing. -/
theorem palProcess_of_sameStep (p : Params) (hv : v ≠ .w) (hwin : q.InWindow v) (hgate2 : gate2 c = true)
    (hsame : palArrive c q = q.idx) : (palProcess p v c q).1 = q := by
  obtain ⟨-, hlast, hheld⟩ := hwin
  have hval : palCollect v c q = q.val := by
    rw [palCollect, hsame, if_neg fun ⟨_, hnew⟩ => hnew hlast, palLeave_of_kept fun hc _ => hheld hc]
  have hheld' : palHeld v c q = q.held := by
    cases v with
    | w => rfl
    | a => rfl
    | c => simp [palHeld, hgate2, hheld rfl]
  rw [palProcess_accumulating hv, hval, hheld', hsame, if_pos hgate2, ← hlast]

/-- A tick of the window that goes to another step adds to that step. -/
theorem readStep_of_moved (p : Params) (hv : v ≠ .w) (hinv : q.Inv) (hwin : q.InWindow v) (hgate2 : gate2 c = true)
    (hmoved : palArrive c q ≠ q.idx) (j : Nat) :
    (readStep (palProcess p v c q).1.val j).toInt =
      if j = (palArrive c q).toNat then palAdd v q (readStep q.val j).toInt else (readStep q.val j).toInt := by
  obtain ⟨-, hlast, hheld⟩ := hwin
  exact readStep_of_accumulate p hv hinv hgate2 (fun hc _ => hheld hc)
    (fun heq => hmoved (lastValid_injective (heq.symm.trans hlast))) j

/-- A tick with gate 2 low closes the window; in variant A, and with no edge in variant C, it writes no step. -/
theorem palProcess_of_gate2_low (p : Params) (hv : v ≠ .w) (hgate2 : gate2 c = false)
    (hkept : v = .c → gate1Rise c = false) :
    (palProcess p v c q).1 = { q with idx := palArrive c q, lastW := lastNone } := by
  have hval : palCollect v c q = q.val := by
    rw [palCollect, if_neg (by simp [hgate2]), palLeave_of_kept fun hc hrise => by simp [hkept hc] at hrise]
  have hheld : palHeld v c q = q.held := by
    cases v with
    | w => rfl
    | a => rfl
    | c => simp [palHeld, hgate2, hkept rfl]
  rw [palProcess_accumulating hv, hval, hheld, hgate2]
  rfl

end

/-- Settles O39: the first tick opens a window at the step where the second stays. -/
theorem secondTickOfAStayAccumulatesNothing : Obligations.SecondTickOfAStayAccumulatesNothing := by
  intro s c d v hf hv hc hd hstay
  have hwin : (palProcess s.params v c s.pal).1.InWindow v := palProcess_inWindow s.params hv hc
  obtain ⟨hstart, -⟩ := id hwin
  exact ⟨_, _, exec_proc_pal c hf, exec_proc_pal d hf,
    palProcess_of_sameStep s.params hv hwin hd ((palArrive_of_stay hstay).trans hstart)⟩

/-- A tick that closes the window without an edge writes the window register alone. -/
theorem palProcess_of_release (p : Params) {v : PalVariant} {q : Pal} {e : Byte} (hv : v ≠ .w) (hwin : q.InWindow v)
    (hgate2 : gate2 e = false) (hstay : gate1Rise e = false) :
    (palProcess p v e q).1 = { q with lastW := lastNone } := by
  obtain ⟨hstart, -⟩ := hwin
  rw [palProcess_of_gate2_low p hv hgate2 fun _ => hstay, palArrive_of_stay hstay, hstart]

/-- After such a tick the window opens again at the same step. -/
theorem readStep_of_reopened (p : Params) {v : PalVariant} {q : Pal} {d : Byte} (hv : v ≠ .w) (hinv : q.Inv)
    (hwin : q.InWindow v) (hgate2 : gate2 d = true) (hstay : gate1Rise d = false) :
    (palProcess p v d { q with lastW := lastNone }).1.idx = q.idx ∧ ∀ j : Nat,
      (readStep (palProcess p v d { q with lastW := lastNone }).1.val j).toInt =
        if j = q.idx.toNat then palAdd v q (readStep q.val j).toInt else (readStep q.val j).toInt := by
  obtain ⟨hlo, hhi, -, hlen⟩ := hinv
  obtain ⟨hstart, -⟩ := hwin
  have harrive : palArrive d { q with lastW := lastNone } = q.idx := (palArrive_of_stay hstay).trans hstart
  have hclosed : ({ q with lastW := lastNone } : Pal).Inv := ⟨hlo, hhi, fun _ => rfl, hlen⟩
  refine ⟨(palProcess_idx p v d _).trans harrive, fun j => ?_⟩
  rw [readStep_of_accumulate p hv hclosed hgate2 (fun _ hrise => by simp [hstay] at hrise) (lastNone_ne_lastValid _),
    harrive]
  rfl

/-- Settles O56: the first tick opens a window; an advance moves to another step of it, or with a count of one to the
same step, and a tick with gate 2 low closes it. -/
theorem accumulationFollowsStepAndWindow : Obligations.AccumulationFollowsStepAndWindow := by
  intro s v c d e hf hv hinv hc hd hestay hrelease delta
  have hscalars := palProcess_scalars s.params v c s.pal
  obtain ⟨hcount, -⟩ := id hscalars
  have hadd : palAdd v (palProcess s.params v c s.pal).1 = palAdd v s.pal := hscalars.palAdd_eq
  have hinv1 := palProcess_inv s.params v c hinv
  have hwin : (palProcess s.params v c s.pal).1.InWindow v := palProcess_inWindow s.params hv hc
  obtain ⟨hstart, -⟩ := id hwin
  refine ⟨_, exec_proc_pal c hf, fun hrise htwo => ?advance, fun hrise hone => ?single, fun hstay => ?again⟩
  case advance =>
    have hmoved := palArrive_ne_idx hinv1 (hcount ▸ htwo) hstart hrise
    have hidx := palProcess_idx s.params v d (palProcess s.params v c s.pal).1
    refine ⟨_, exec_proc_pal d hf, hidx ▸ hmoved, fun j => ?_⟩
    have hvalue := readStep_of_moved s.params hv hinv1 hwin hd hmoved j
    rw [hadd, ← hidx] at hvalue
    exact hvalue
  case single =>
    have hone' : s.pal.count.toNat = 1 := congrArg BitVec.toNat hone
    have hidx : (palProcess s.params v c s.pal).1.idx = 0 :=
      (palProcess_idx s.params v c s.pal).trans (palArrive_of_count_one hinv hone')
    have hsame := (palArrive_of_count_one (c := d) hinv1 (hcount ▸ hone')).trans hidx.symm
    have hkept := palProcess_of_sameStep s.params hv hwin hd hsame
    exact ⟨_, exec_proc_pal d hf, hkept, (congrArg Pal.idx hkept).trans hidx⟩
  case again =>
    have hclosed := palProcess_of_release s.params hv hwin hrelease hestay
    obtain ⟨hidx, hvalue⟩ := readStep_of_reopened s.params hv hinv1 hwin hd hstay
    rw [hadd, ← hclosed] at hvalue
    rw [← hclosed] at hidx
    have hval := congrArg Pal.val hclosed
    have hlast := congrArg Pal.lastW hclosed
    exact ⟨_, _, exec_proc_pal e hf, exec_proc_pal d hf, hval, hlast, hidx, hvalue⟩

end Sys2Proof.Machine

/-! Runs of PROC commands with a PAL variant active, and the passes and laps of the sequence in them
(42_accent_sequencer.md rules R161, R163 and R179). -/

namespace Sys2Proof.Machine

/-! The run of a list of control bytes. -/

/-- The registers after the ticks with the control bytes `cs`. -/
def palRun (p : Params) (v : PalVariant) (cs : List Byte) (q : Pal) : Pal :=
  cs.foldl (fun q c => (palProcess p v c q).1) q

/-- The samples of these ticks. -/
def palSamples (p : Params) (v : PalVariant) : List Byte → Pal → List Half16
  | [], _ => []
  | c :: cs, q => palOutput p v (palProcess p v c q).1 :: palSamples p v cs (palProcess p v c q).1

theorem palRun_cons (p : Params) (v : PalVariant) (c : Byte) (cs : List Byte) (q : Pal) :
    palRun p v (c :: cs) q = palRun p v cs (palProcess p v c q).1 := rfl

theorem palRun_append (p : Params) (v : PalVariant) (cs ds : List Byte) (q : Pal) :
    palRun p v (cs ++ ds) q = palRun p v ds (palRun p v cs q) := List.foldl_append

theorem length_palSamples (p : Params) (v : PalVariant) (cs : List Byte) (q : Pal) :
    (palSamples p v cs q).length = cs.length := by
  induction cs generalizing q with
  | nil => rfl
  | cons c cs ih => rw [palSamples, List.length_cons, ih, List.length_cons]

theorem palRun_scalars (p : Params) (v : PalVariant) (cs : List Byte) (q : Pal) :
    (palRun p v cs q).SameScalars q := by
  induction cs generalizing q with
  | nil => exact ⟨rfl, rfl, rfl, rfl, rfl, rfl⟩
  | cons c cs ih => exact (ih _).trans (palProcess_scalars p v c q)

theorem palRun_inv (p : Params) (v : PalVariant) (cs : List Byte) {q : Pal} (h : q.Inv) : (palRun p v cs q).Inv := by
  induction cs generalizing q with
  | nil => exact h
  | cons c cs ih => exact ih (palProcess_inv p v c h)

/-- One PROC command as it stands on the port. -/
def procEvent (c : Byte) : PortEvent := .word (mkWord 0x6 c 0)

theorem step_procEvent {s : State} {c : Byte} {rest : List PortEvent} (hport : s.port = procEvent c :: rest) :
    step s = exec (.proc c) { s with port := rest } := by
  have hcount : ([] : List Word).length = dataCount (mkWord 0x6 c 0) :=
    (dataCount_of_ne (classify_proc c) (by decide)).symm
  exact stepRunsDecodedCommand s _ [] rest _ hport hcount (decodeOfEncodedCommand (.proc c) [] rfl)

theorem step_procEvent_pal {s : State} {v : PalVariant} {c : Byte} {rest : List PortEvent} (hf : s.func = .pal v)
    (hport : s.port = procEvent c :: rest) :
    step s = .next { s with
      port := rest
      pal := (palProcess s.params v c s.pal).1
      rsp := some ⟨palOutput s.params v (palProcess s.params v c s.pal).1, false⟩ } :=
  (step_procEvent hport).trans (exec_proc_pal c hf)

theorem run_succ_of_step {M : Host.Core} {s t : M.State} (n : Nat) (h : M.step s = .next t) :
    M.run (n + 1) s = M.run n t := by
  rw [Host.Core.run, h]

/-- A run of PROC commands takes them off the port and leaves the registers of `palRun`. -/
theorem run_procEvents (cs : List Byte) {s : State} {v : PalVariant} {rest : List PortEvent} (hf : s.func = .pal v)
    (hport : s.port = cs.map procEvent ++ rest) :
    ∃ t : State, core.run cs.length s = .next t ∧ t.pal = palRun s.params v cs s.pal ∧ t.port = rest ∧
      t.func = s.func ∧ t.params = s.params := by
  induction cs generalizing s with
  | nil => exact ⟨s, rfl, rfl, hport, rfl, rfl⟩
  | cons c cs ih =>
    rw [List.length_cons, palRun_cons, run_succ_of_step (M := core) cs.length (step_procEvent_pal hf hport)]
    exact ih hf rfl

/-- The responses of such a run are its samples. -/
theorem responses_procEvents (cs : List Byte) {s : State} {v : PalVariant} {rest : List PortEvent}
    (hf : s.func = .pal v) (hport : s.port = cs.map procEvent ++ rest) :
    s.responses cs.length = (palSamples s.params v cs s.pal).map fun y => some ⟨y, false⟩ := by
  induction cs generalizing s with
  | nil => rfl
  | cons c cs ih =>
    rw [List.length_cons, State.responses, step_procEvent_pal hf hport, palSamples, List.map_cons]
    refine congrArg (List.cons _) (ih ?_ ?_)
    · exact hf
    · rfl

/-! Counting edges (R161). -/

/-- From an index below the count, a run moves the index by its number of gate-1 edges, modulo the count. -/
theorem palRun_idx (p : Params) (v : PalVariant) (cs : List Byte) {q : Pal} (hinv : q.Inv)
    (hidx : q.idx.toNat < q.count.toNat) :
    (palRun p v cs q).idx.toNat = (q.idx.toNat + cs.countP gate1Rise) % q.count.toNat := by
  induction cs generalizing q with
  | nil => exact (Nat.mod_eq_of_lt hidx).symm
  | cons c cs ih =>
    obtain ⟨hcount, -⟩ := palProcess_scalars p v c q
    have hnext : (palProcess p v c q).1.idx.toNat = (q.idx.toNat + if gate1Rise c then 1 else 0) % q.count.toNat := by
      rw [palProcess_idx, palArrive_mod c hinv hidx]
    have hlt : (palProcess p v c q).1.idx.toNat < (palProcess p v c q).1.count.toNat := by
      rw [palProcess_idx, hcount]
      exact palArrive_lt c hinv
    rw [palRun_cons, ih (palProcess_inv p v c hinv) hlt, hnext, hcount, Nat.mod_add_mod, List.countP_cons,
      Nat.add_assoc, Nat.add_comm (cs.countP gate1Rise)]

/-- Settles O40: the run counts from index 0. -/
theorem palIndexCountsEdgesModulo : Obligations.PalIndexCountsEdgesModulo := by
  intro cs s v rest hf hinv hzero hport
  obtain ⟨t, hrun, hpal, hrest, -⟩ := run_procEvents cs hf hport
  obtain ⟨hpos, -⟩ := id hinv
  have hfrom : s.pal.idx.toNat = 0 := congrArg BitVec.toNat hzero
  have hidx := palRun_idx s.params v cs hinv (hfrom ▸ hpos)
  obtain ⟨hcount, -⟩ := palRun_scalars s.params v cs s.pal
  rw [hfrom, Nat.zero_add, ← hpal] at hidx
  exact ⟨t, hrun, hidx, hpal ▸ hcount, hrest⟩

/-! A pass of variant A with gate 2 low (R179). -/

theorem palProcess_a_of_gate2_low (p : Params) {c : Byte} (q : Pal) (hgate2 : gate2 c = false) :
    (palProcess p .a c q).1 = { q with idx := palArrive c q, lastW := lastNone } :=
  palProcess_of_gate2_low p (by decide) hgate2 PalVariant.noConfusion

/-- Such ticks write the index and close the window, and write no step. -/
theorem palRun_of_gate2_low (p : Params) {c : Byte} (n : Nat) (q : Pal) (hgate2 : gate2 c = false) :
    palRun p .a (List.replicate (n + 1) c) q =
      { q with idx := (palRun p .a (List.replicate (n + 1) c) q).idx, lastW := lastNone } := by
  induction n generalizing q with
  | zero =>
    change (palProcess p .a c q).1 = { q with idx := (palProcess p .a c q).1.idx, lastW := lastNone }
    rw [palProcess_a_of_gate2_low p q hgate2]
  | succ n ih =>
    rw [List.replicate_succ, palRun_cons, ih, palProcess_a_of_gate2_low p q hgate2]

/-- The first tick of a pass closes the window, so no sample depends on it. -/
theorem palSamples_of_gate2_low (p : Params) {c : Byte} (n : Nat) (q : Pal) (w : BitVec 5) (hgate2 : gate2 c = false) :
    palSamples p .a (List.replicate (n + 1) c) { q with lastW := w } =
      palSamples p .a (List.replicate (n + 1) c) q := by
  have hsame : (palProcess p .a c { q with lastW := w }).1 = (palProcess p .a c q).1 := by
    rw [palProcess_a_of_gate2_low p _ hgate2, palProcess_a_of_gate2_low p q hgate2]
    rfl
  rw [List.replicate_succ, palSamples, palSamples, hsame]

/-- A pass returns to its registers, but for the window that its first tick closes. -/
theorem palRun_pass (p : Params) {c : Byte} {q : Pal} (hinv : q.Inv) (hidx : q.idx.toNat < q.count.toNat)
    (hrise : gate1Rise c = true) (hgate2 : gate2 c = false) :
    palRun p .a (List.replicate q.count.toNat c) q = { q with lastW := lastNone } := by
  obtain ⟨n, hn⟩ := Nat.exists_eq_succ_of_ne_zero (Nat.ne_zero_of_lt hidx)
  have hback : (palRun p .a (List.replicate q.count.toNat c) q).idx = q.idx := by
    apply BitVec.eq_of_toNat_eq
    rw [palRun_idx p .a _ hinv hidx, List.countP_replicate, if_pos hrise, Nat.add_mod_right, Nat.mod_eq_of_lt hidx]
  rw [hn] at hback ⊢
  rw [palRun_of_gate2_low p n q hgate2, hback]

/-- Settles O41: the second pass starts from the registers of the first, but for the window. -/
theorem palPassIsPeriodic : Obligations.PalPassIsPeriodic := by
  intro s c rest hf hinv hidx hrise hgate2 hport
  have hpasses : s.port = (List.replicate s.pal.count.toNat c).map procEvent ++
      ((List.replicate s.pal.count.toNat c).map procEvent ++ rest) := by
    rw [hport, Nat.two_mul, List.replicate_add, List.append_assoc, List.map_replicate]
    rfl
  obtain ⟨t, hrun, hpal, hrest, hfunc, hparams⟩ := run_procEvents _ hf hpasses
  have hfirst := responses_procEvents _ hf hpasses
  have hsecond := responses_procEvents _ (hfunc.trans hf) hrest
  rw [palRun_pass s.params hinv hidx hrise hgate2] at hpal
  rw [List.length_replicate] at hrun hfirst hsecond
  refine ⟨t, hrun, hpal, ?length, ?repeats⟩
  case length => rw [hfirst, List.length_map, length_palSamples, List.length_replicate]
  case repeats =>
    obtain ⟨n, hn⟩ := Nat.exists_eq_succ_of_ne_zero (Nat.ne_zero_of_lt hidx)
    rw [hsecond, hfirst, hparams, hpal, hn, palSamples_of_gate2_low s.params n s.pal _ hgate2]

/-! A lap inside a window (R163). -/

/-- Counting on from `i` modulo `n`, `n` numbers meet each residue once. -/
theorem count_add_mod (n i j : Nat) :
    Nat.count (fun m => (i + m) % n = j) n = if j < n then 1 else 0 := by
  have hshift : Nat.count (fun m => (i + m) % n = j) n = Nat.count (fun m => m % n = j) n := by
    have hcount := Nat.count_add (fun m => m % n = j) i n
    rw [Nat.add_comm i n, Nat.count_add] at hcount
    simp only [Nat.add_mod_left] at hcount
    omega
  have hfilter : (Finset.range n).filter (fun m => m % n = j) = (Finset.range n).filter (fun m => m = j) :=
    Finset.filter_congr fun m hm => by rw [Nat.mod_eq_of_lt (Finset.mem_range.mp hm)]
  rw [hshift, Nat.count_eq_card_filter_range, hfilter, Finset.filter_eq', apply_ite Finset.card]
  simp

section
variable {v : PalVariant} {q : Pal} {c d : Byte}

/-- A tick with gate 2 high and then `k` edges inside its window move the index `k` steps on. -/
theorem palRun_lap_idx (p : Params) (k : Nat) (hinv : q.Inv) (hidx : q.idx.toNat < q.count.toNat)
    (hopen : gate1Rise c = false) (hrise : gate1Rise d = true) :
    (palRun p v (c :: List.replicate k d) q).idx.toNat = (q.idx.toNat + k) % q.count.toNat := by
  rw [palRun_idx p v _ hinv hidx, List.countP_cons, List.countP_replicate, if_pos hrise, if_neg (by simp [hopen]),
    Nat.add_zero]

theorem palRun_lap_succ (p : Params) (k : Nat) :
    palRun p v (c :: List.replicate (k + 1) d) q = (palProcess p v d (palRun p v (c :: List.replicate k d) q)).1 := by
  rw [List.replicate_succ', ← List.cons_append, palRun_append]
  rfl

theorem palRun_lap_inWindow (p : Params) (k : Nat) (hv : v ≠ .w) (hc : gate2 c = true) (hd : gate2 d = true) :
    (palRun p v (c :: List.replicate k d) q).InWindow v := by
  cases k with
  | zero => exact palProcess_inWindow p hv hc
  | succ k =>
    rw [palRun_lap_succ]
    exact palProcess_inWindow p hv hd

/-- Each step has been accumulated as often as the window has come to it. -/
theorem readStep_palRun_lap (p : Params) (k : Nat) (hv : v ≠ .w) (hinv : q.Inv) (hcount : 2 ≤ q.count.toNat)
    (hidx : q.idx.toNat < q.count.toNat) (hlast : q.lastW = lastNone) (hopen : gate1Rise c = false)
    (hc : gate2 c = true) (hrise : gate1Rise d = true) (hd : gate2 d = true) (j : Nat) :
    (readStep (palRun p v (c :: List.replicate k d) q).val j).toInt =
      (palAdd v q)^[Nat.count (fun m => (q.idx.toNat + m) % q.count.toNat = j) (k + 1)] (readStep q.val j).toInt := by
  induction k with
  | zero =>
    have harrive : palArrive c q = q.idx := (palArrive_of_stay hopen).trans (palStart_of_lt hidx)
    have hnew : q.lastW ≠ lastValid (palArrive c q) := hlast ▸ lastNone_ne_lastValid _
    have hvalue := readStep_of_accumulate p hv hinv hc (fun _ h => by simp [hopen] at h) hnew j
    rw [harrive] at hvalue
    refine hvalue.trans ?_
    rw [Nat.count_succ, Nat.count_zero, Nat.add_zero, Nat.mod_eq_of_lt hidx]
    obtain rfl | hj := eq_or_ne j q.idx.toNat
    · simp
    · simp [hj, hj.symm]
  | succ k ih =>
    have hscalars := palRun_scalars p v (c :: List.replicate k d) q
    obtain ⟨hcount', -⟩ := id hscalars
    have hinv' := palRun_inv p v (c :: List.replicate k d) hinv
    have hwin : (palRun p v (c :: List.replicate k d) q).InWindow v := palRun_lap_inWindow p k hv hc hd
    obtain ⟨hstart, -⟩ := id hwin
    have hmoved := palArrive_ne_idx hinv' (hcount' ▸ hcount) hstart hrise
    have harrive : (palArrive d (palRun p v (c :: List.replicate k d) q)).toNat =
        (q.idx.toNat + (k + 1)) % q.count.toNat := by
      rw [← palProcess_idx p v, ← palRun_lap_succ, palRun_lap_idx p (k + 1) hinv hidx hopen hrise]
    rw [palRun_lap_succ, readStep_of_moved p hv hinv' hwin hd hmoved, harrive, hscalars.palAdd_eq, ih,
      Nat.count_succ _ (k + 1)]
    obtain rfl | hj := eq_or_ne j ((q.idx.toNat + (k + 1)) % q.count.toNat)
    · rw [if_pos rfl, if_pos rfl, Function.iterate_succ_apply']
    · rw [if_neg hj, if_neg hj.symm]
      rfl

end

/-- Settles O57: over a whole lap and the tick that opens the window, the first step comes up twice and every other
active step once. -/
theorem lapInsideWindowAccumulatesAgain : Obligations.LapInsideWindowAccumulatesAgain := by
  intro s v c d rest hf hv hinv hcount hidx hlast hopen hc hrise hd hport delta add
  have hevents : s.port = (c :: List.replicate s.pal.count.toNat d).map procEvent ++ rest := by
    rw [hport, List.map_cons, List.map_replicate]
    rfl
  obtain ⟨t, hrun, hpal, hrest, -⟩ := run_procEvents _ hf hevents
  rw [List.length_cons, List.length_replicate] at hrun
  refine ⟨t, hrun, ?index, hrest, fun j => ?values⟩
  case index =>
    apply BitVec.eq_of_toNat_eq
    rw [hpal, palRun_lap_idx s.params _ hinv hidx hopen hrise, Nat.add_mod_right, Nat.mod_eq_of_lt hidx]
  case values =>
    have hadd : add = palAdd v s.pal := rfl
    rw [hpal, readStep_palRun_lap s.params _ hv hinv hcount hidx hlast hopen hc hrise hd, hadd, Nat.count_succ,
      count_add_mod, Nat.add_mod_right, Nat.mod_eq_of_lt hidx]
    obtain rfl | hj := eq_or_ne j s.pal.idx.toNat
    · rw [if_pos hidx, if_pos rfl, if_pos rfl]
      rfl
    · rw [if_neg hj, if_neg hj.symm]
      split <;> rfl

end Sys2Proof.Machine

/-! The LED queries LEDF and LEDN (43_chromatic_sequencer.md rules R215 and R216). -/

namespace Sys2Proof.Machine

theorem exec_ledf_bm {s : State} {v : BmVariant} (hf : s.func = .bm v) :
    exec .ledf s = .next { s with
      rsp := some ⟨(BitVec.ofNat 8 ((s.bm.frame.toNat + 1) * 255 / bmFrames v)).setWidth 16, false⟩ } := by
  simp only [exec, execLedf, hf, State.respond]

theorem exec_ledf_of_ne {s : State} (hf : ∀ v, s.func ≠ .bm v) :
    exec .ledf s = .next { s with rsp := some ⟨0, false⟩ } := by
  cases hfunc : s.func with
  | bm v => exact absurd hfunc (hf v)
  | _ => simp only [exec, execLedf, hfunc, State.respond]

theorem exec_ledn_bm {s : State} {v : BmVariant} (hf : s.func = .bm v) :
    exec .ledn s = .next { s with
      rsp := some ⟨(BitVec.ofNat 8 ((s.bm.lastQ.toInt + 32768) / 256).toNat).setWidth 16, false⟩ } := by
  simp only [exec, execLedn, hf, State.respond]

theorem exec_ledn_of_ne {s : State} (hf : ∀ v, s.func ≠ .bm v) :
    exec .ledn s = .next { s with rsp := some ⟨0, false⟩ } := by
  cases hfunc : s.func with
  | bm v => exact absurd hfunc (hf v)
  | _ => simp only [exec, execLedn, hfunc, State.respond]

/-- A brightness on the response port: 8 bits, zero-extended (R90). -/
theorem brightness_toNat {n : Nat} (h : n ≤ 255) : ((BitVec.ofNat 8 n).setWidth 16).toNat = n := by
  rw [BitVec.toNat_setWidth, BitVec.toNat_ofNat]
  omega

theorem bmFrames_eq (v : BmVariant) : bmFrames v = if v = .b then 3 else 2 := by cases v <;> rfl

/-- Settles O48: the last frame has brightness 255, so the answer fits its eight bits. -/
theorem ledfAnswersFrame : Obligations.LedfAnswersFrame := by
  refine fun s => ⟨fun v hf hframe => ?bm, exec_ledf_of_ne⟩
  have hle : (s.bm.frame.toNat + 1) * 255 / bmFrames v ≤ 255 :=
    Nat.div_le_of_le_mul (Nat.mul_le_mul_right 255 hframe)
  refine ⟨_, exec_ledf_bm hf, ?_⟩
  rw [brightness_toNat hle, ← bmFrames_eq]
  exact ⟨rfl, hle⟩

/-- Settles O49: moved to unsigned, a sample is below `2^16`, so its top 8 bits fit the answer. -/
theorem lednAnswersCachedSample : Obligations.LednAnswersCachedSample := by
  refine fun s => ⟨fun v hf => ?bm, exec_ledn_of_ne⟩
  have hsample := half16_toInt_bounds s.bm.lastQ
  refine ⟨_, exec_ledn_bm hf, ?_⟩
  rw [brightness_toNat (by omega)]
  omega

end Sys2Proof.Machine

/-! Configure of the ChromaticStepSequencer: the step values a moved knob overwrites, and the commands CFG and SETFN
that run it (43_chromatic_sequencer.md rules R196 to R200). -/

namespace Sys2Proof.Machine

/-- A knob slot writes the step of the current frame at its own place, and only if the knob moved and the step is in
range (R198, R200). -/
theorem readStep_bmLatch (v : BmVariant) (e : Knobs) {b : Bm} (j k : Fin 4) (f : Nat) (hlen : 12 ≤ b.val.length) :
    readStep (bmLatch v e b j).val (f * 4 + k.val) =
      if f = b.frame.toNat ∧ k = j ∧ f * 4 + k.val < bmCap v ∧ e[k.val] ≠ b.snap[k.val] then bipolar e[k.val]
      else readStep b.val (f * 4 + k.val) := by
  have hcap := bmCap_le v
  have hplace : b.frame.toNat * 4 + j.val = f * 4 + k.val ↔ f = b.frame.toNat ∧ k = j := by
    rw [Fin.ext_iff]
    omega
  unfold bmLatch
  split
  next hmoved =>
    dsimp only
    split
    next hin =>
      rw [readStep_writeStep _ _ _ _ (by omega)]
      by_cases hj : f = b.frame.toNat ∧ k = j
      · obtain ⟨rfl, rfl⟩ := hj
        rw [if_pos rfl, if_pos ⟨rfl, rfl, hin, hmoved⟩]
      · rw [if_neg (hplace.not.mpr hj), if_neg fun ⟨hframe, hk, _⟩ => hj ⟨hframe, hk⟩]
    next hout =>
      rw [if_neg]
      rintro ⟨rfl, rfl, hin, -⟩
      exact hout hin
  next hsame =>
    rw [if_neg]
    rintro ⟨-, rfl, -, hmoved⟩
    exact hsame hmoved

/-- A slot that has been recorded does not write again, so each knob of the list counts once. -/
theorem readStep_foldl_bmLatch (v : BmVariant) (e : Knobs) (k : Fin 4) (f : Nat) (l : List (Fin 4)) {b : Bm}
    (hlen : 12 ≤ b.val.length) :
    readStep (l.foldl (bmLatch v e) b).val (f * 4 + k.val) =
      if f = b.frame.toNat ∧ k ∈ l ∧ f * 4 + k.val < bmCap v ∧ e[k.val] ≠ b.snap[k.val] then bipolar e[k.val]
      else readStep b.val (f * 4 + k.val) := by
  induction l generalizing b with
  | nil => simp
  | cons j l ih =>
    obtain ⟨-, hframe, -⟩ := bmLatch_sameRun v e j (b := b) ⟨rfl, rfl, rfl, rfl⟩
    rw [List.foldl_cons, ih (by rwa [bmLatch_length]), hframe, bmLatch_snap, readStep_bmLatch v e j k f hlen,
      Vector.getElem_set]
    by_cases hjk : k = j
    · subst hjk
      simp
    · have hval : ¬ j.val = k.val := fun h => hjk (Fin.ext h.symm)
      simp [hjk, hval]

theorem readStep_bmConfigure (v : BmVariant) (e : Knobs) (k : Fin 4) (f : Nat) {b : Bm} (hlen : 12 ≤ b.val.length) :
    readStep (bmConfigure v e b).val (f * 4 + k.val) =
      if f = b.frame.toNat ∧ k ∈ bmSlots v ∧ f * 4 + k.val < bmCap v ∧ e[k.val] ≠ b.snap[k.val] then bipolar e[k.val]
      else readStep b.val (f * 4 + k.val) :=
  readStep_foldl_bmLatch v e k f (bmSlots v) hlen

/-- In `BM_D` the last knob sets the count, 1 to 8; the other variants fix it (R198). -/
theorem bmCount_toNat (v : BmVariant) (e : Knobs) :
    (bmCount v e).toNat =
      match v with
      | .a => 8
      | .b => 4
      | .c => 8
      | .d => 1 + e[3].toNat * 8 / 65536 := by
  cases v with
  | d =>
    have hknob := e[3].isLt
    exact Nat.mod_eq_of_lt (by omega)
  | _ => rfl

/-- Settles O19: the values and snapshots are those Configure leaves, and it keeps the registers by which the function
runs. -/
theorem cfgBmLatchesMovedKnobs : Obligations.CfgBmLatchesMovedKnobs := by
  intro s v hf hlen
  refine ⟨_, execCfg_bm hf, ?_⟩
  generalize effective s.mode (HalfTable.bm s.params.half v) s.p = e
  obtain ⟨hidx, hframe, hflip, hlastQ⟩ := bmConfigure_sameRun v e s.bm
  exact ⟨bmConfigure_length v e s.bm, fun f k => readStep_bmConfigure v e k f hlen, bmConfigure_snap v e s.bm, hidx,
    hframe, hflip, hlastQ, bmCount_toNat v e⟩

theorem slot_lt_bmCap (v : BmVariant) (k : Fin 4) : k.val < bmCap v := by
  have hcap : 8 ≤ bmCap v := by cases v <;> decide
  omega

/-- The first Configure after an init loads every value knob into frame 0. A knob at mid-scale counts as not moved, and
the 0 that its step keeps is what its position stands for (R199). -/
theorem readStep_bmConfigure_reset (v : BmVariant) (e : Knobs) {p : Params} (hcap : 12 ≤ p.bmArrayCap) (f : Nat)
    (k : Fin 4) :
    readStep (bmConfigure v e (Bm.reset p)).val (f * 4 + k.val) =
      if f = 0 ∧ k ∈ bmSlots v then bipolar e[k.val] else 0 := by
  have hlen : 12 ≤ (Bm.reset p).val.length := by simpa [Bm.reset] using hcap
  have hzero : readStep (Bm.reset p).val (f * 4 + k.val) = 0 := readStep_replicate _ _
  have hframe : (Bm.reset p).frame.toNat = 0 := rfl
  have hsnap : (Bm.reset p).snap[k.val] = 0x8000 := Vector.getElem_replicate _
  rw [readStep_bmConfigure v e k f hlen, hzero, hframe, hsnap]
  by_cases hslot : f = 0 ∧ k ∈ bmSlots v
  · obtain ⟨rfl, hk⟩ := hslot
    have hin : 0 * 4 + k.val < bmCap v := by simpa using slot_lt_bmCap v k
    by_cases hmid : e[k.val] = 0x8000
    · rw [if_neg fun ⟨_, _, _, hmoved⟩ => hmoved hmid, if_pos ⟨rfl, hk⟩, hmid, bipolar_mid]
    · rw [if_pos ⟨rfl, hk, hin, hmid⟩, if_pos ⟨rfl, hk⟩]
  · rw [if_neg fun ⟨hf, hk, _⟩ => hslot ⟨hf, hk⟩, if_neg hslot]

theorem exec_setfn_bm (s : State) (v : BmVariant) :
    ∃ t, exec (.setfn (.bm v)) s = .next t ∧
      t.bm = bmConfigure v (effective s.mode (HalfTable.bm s.params.half v) s.p) (Bm.reset s.params) :=
  ⟨_, execSetfn_of_selectable rfl, rfl⟩

/-- Settles O14: the Configure of SETFN starts from the registers of init. -/
theorem setfnBmLoadsFrameZero : Obligations.SetfnBmLoadsFrameZero := by
  intro s v hcap
  obtain ⟨t, hstep, hbm⟩ := exec_setfn_bm s v
  refine ⟨t, hstep, ?_⟩
  rw [hbm]
  generalize effective s.mode (HalfTable.bm s.params.half v) s.p = e
  obtain ⟨hidx, hframe, hflip, hlastQ⟩ := bmConfigure_sameRun v e (Bm.reset s.params)
  refine ⟨?size, fun k => ?loaded, fun j hj => ?rest, fun k => ?snap, hidx, hframe, hflip, hlastQ, rfl⟩
  case size => exact (bmConfigure_length v e _).trans List.length_replicate
  case loaded =>
    have hvalue := readStep_bmConfigure_reset v e hcap 0 k
    rw [Nat.zero_mul, Nat.zero_add] at hvalue
    rw [hvalue, apply_ite BitVec.toInt, bipolar_toInt]
    simp
  case rest =>
    have hvalue := readStep_bmConfigure_reset v e hcap (j / 4) ⟨j % 4, Nat.mod_lt j (by decide)⟩
    rwa [Nat.div_add_mod' j 4, if_neg (by omega)] at hvalue
  case snap =>
    rw [bmConfigure_snap]
    exact if_congr Iff.rfl rfl (Vector.getElem_replicate _)

end Sys2Proof.Machine

/-! A tick of the ChromaticStepSequencer: where an advance lands, each micro-step as a number, and the whole tick of the
frame variants and of the flip variants (43_chromatic_sequencer.md rules R201 to R210). -/

namespace Sys2Proof.Machine

/-! The sentinel, for an advance from any step (R207). -/

/-- The current step is step 0 of its sequence, or above the sentinel threshold. -/
abbrev Bm.Settled (p : Params) (v : BmVariant) (b : Bm) : Prop :=
  b.idx = 0 ∨ p.bmSentinel.toInt < (readStep b.val (bmBase v b + b.idx.toNat)).toInt

theorem bmAdvance_settled (p : Params) (v : BmVariant) (b : Bm) : (bmAdvance p v b).Settled p v := by
  simp only [bmAdvance]
  generalize (if b.count.toNat ≤ b.idx.toNat + 1 then 0 else b.idx + 1 : BitVec 4) = i
  split
  next => exact .inl rfl
  next habove => exact .inr (not_le.mp habove)

/-- Without an edge gate 1 leaves the step as it is, and with one it advances. -/
theorem bmGate1_settled (p : Params) (v : BmVariant) (c : Byte) {b : Bm} (h : gate1Rise c = true ∨ b.Settled p v) :
    (bmGate1 p v c b).Settled p v := by
  unfold bmGate1
  split
  next => exact bmAdvance_settled p v b
  next hrise => exact h.resolve_left hrise

/-- The gate-2 edge that returns to base polarity advances as a gate-1 edge does (R205). -/
theorem bmGate2_settled (p : Params) {v : BmVariant} {c : Byte} {b : Bm} (hrole : bmRole v = .flip)
    (hrise : gate2Rise c = true) (hflip : b.flip = true) : (bmGate2 p v c b).Settled p v := by
  rw [bmGate2, if_pos hrise, hrole]
  simp only [hflip]
  exact bmAdvance_settled p v { b with flip := false }

/-- The flip variants have one sequence, whatever the frame (R192). -/
theorem bmBase_of_flip {v : BmVariant} (hrole : bmRole v = .flip) (b : Bm) : bmBase v b = 0 := by
  cases v with
  | c | d => rfl
  | a | b => cases hrole

theorem bmFollow_settled (p : Params) {v : BmVariant} {b : Bm} (h : b.Settled p v) : (bmFollow v b).Settled p v := by
  unfold bmFollow
  cases hrole : bmRole v with
  | frame => exact h
  | flip =>
    rw [Bm.Settled, bmBase_of_flip hrole] at h
    rwa [Bm.Settled, bmBase_of_flip hrole]

theorem bmBase_eq (v : BmVariant) (b : Bm) : bmBase v b = if v = .b then b.frame.toNat * 4 else 0 := by cases v <;> rfl

theorem bmRevalidate_flip (b : Bm) : (bmRevalidate b).flip = b.flip := by
  unfold bmRevalidate
  split <;> rfl

theorem bmProcess_settled (p : Params) {v : BmVariant} {c : Byte} {b : Bm}
    (h : gate1Rise c = true ∨ (bmRole v = .flip ∧ gate2Rise c = true ∧ b.flip = true)) :
    (bmProcess p v c b).1.Settled p v := by
  have hmoved : (bmGate1 p v c (bmGate2 p v c (bmRevalidate b))).Settled p v := by
    apply bmGate1_settled
    obtain hrise | ⟨hrole, hrise2, hflip⟩ := h
    · exact .inl hrise
    · exact .inr (bmGate2_settled p hrole hrise2 ((bmRevalidate_flip b).trans hflip))
  exact bmFollow_settled p hmoved

/-- Settles O42: every advance of the tick settles the step, and nothing after it moves the step. -/
theorem advanceNeverLandsOnSentinel : Obligations.AdvanceNeverLandsOnSentinel := by
  intro s c v hf hadvance
  obtain ⟨hval, -, -⟩ := bmProcess_latched s.params v c s.bm
  have hsettled : (bmProcess s.params v c s.bm).1.Settled s.params v := by
    refine bmProcess_settled s.params (hadvance.imp_right ?_)
    rintro ⟨hrise2, hflip, rfl | rfl⟩ <;> exact ⟨rfl, hrise2, hflip⟩
  rw [Bm.Settled, bmBase_eq] at hsettled
  exact ⟨_, exec_proc_bm c hf, hval, hsettled⟩

/-! The micro-steps, with the index and the frame as numbers (R201 to R205). Inside a tick the index is `i`, below the
count, and the count is at most 8. -/

/-- The step after `i`, wrapping at the count (R201). -/
def bmNext (b : Bm) (i : Nat) : Nat := if b.count.toNat ≤ i + 1 then 0 else i + 1

/-- Where an advance from step `i` of the sequence at `base` lands (R207). -/
def bmLanding (p : Params) (b : Bm) (base i : Nat) : Nat :=
  if (readStep b.val (base + bmNext b i)).toInt ≤ p.bmSentinel.toInt then 0 else bmNext b i

/-- The index after the re-validation (R202). -/
def bmStart (b : Bm) : Nat := if b.count.toNat ≤ b.idx.toNat then 0 else b.idx.toNat

theorem bmNext_lt {b : Bm} {i : Nat} (hi : i < b.count.toNat) : bmNext b i < b.count.toNat := by
  unfold bmNext
  split <;> omega

theorem bmLanding_lt (p : Params) {b : Bm} (base : Nat) {i : Nat} (hi : i < b.count.toNat) :
    bmLanding p b base i < b.count.toNat := by
  unfold bmLanding
  split
  · exact Nat.zero_lt_of_lt hi
  · exact bmNext_lt hi

theorem bmStart_lt {b : Bm} (h : b.Inv) : bmStart b < b.count.toNat := by
  obtain ⟨hlo, -⟩ := h
  unfold bmStart
  split <;> omega

theorem bmRevalidate_eq (b : Bm) : bmRevalidate b = { b with idx := BitVec.ofNat 4 (bmStart b) } := by
  unfold bmRevalidate bmStart
  split
  · rfl
  · rw [BitVec.ofNat_toNat, BitVec.setWidth_eq]

theorem bmAdvance_at (p : Params) (v : BmVariant) {b : Bm} {i : Nat} (hi : i < b.count.toNat)
    (hcount : b.count.toNat ≤ 8) :
    bmAdvance p v { b with idx := BitVec.ofNat 4 i } =
      { b with idx := BitVec.ofNat 4 (bmLanding p b (bmBase v b) i) } := by
  have hidx : (BitVec.ofNat 4 i).toNat = i := Nat.mod_eq_of_lt (by omega)
  have hnext : (if b.count.toNat ≤ i + 1 then 0 else BitVec.ofNat 4 i + 1) = BitVec.ofNat 4 (bmNext b i) := by
    unfold bmNext
    split
    · rfl
    · exact (BitVec.ofNat_add ..).symm
  have hland : (BitVec.ofNat 4 (bmNext b i)).toNat = bmNext b i :=
    Nat.mod_eq_of_lt ((bmNext_lt hi).trans (by omega))
  have hbase : bmBase v { b with idx := BitVec.ofNat 4 i } = bmBase v b := rfl
  simp only [bmAdvance, hidx, hnext, hland, hbase, bmLanding]
  split <;> rfl

/-- The index after gate 1 (R203). -/
def bmMove (p : Params) (c : Byte) (b : Bm) (base i : Nat) : Nat := if gate1Rise c then bmLanding p b base i else i

theorem bmMove_lt (p : Params) (c : Byte) {b : Bm} (base : Nat) {i : Nat} (hi : i < b.count.toNat) :
    bmMove p c b base i < b.count.toNat := by
  unfold bmMove
  split
  · exact bmLanding_lt p base hi
  · exact hi

theorem bmGate1_at (p : Params) (v : BmVariant) (c : Byte) {b : Bm} {i : Nat} (hi : i < b.count.toNat)
    (hcount : b.count.toNat ≤ 8) :
    bmGate1 p v c { b with idx := BitVec.ofNat 4 i } =
      { b with idx := BitVec.ofNat 4 (bmMove p c b (bmBase v b) i) } := by
  unfold bmGate1 bmMove
  split
  · exact bmAdvance_at p v hi hcount
  · rfl

/-! The frame variants (R204). -/

/-- The frame after gate 2. -/
def bmSelect (v : BmVariant) (c : Byte) (b : Bm) : Nat :=
  if gate2Rise c then (if bmFrames v ≤ b.frame.toNat + 1 then 0 else b.frame.toNat + 1) else b.frame.toNat

theorem bmSelect_lt {v : BmVariant} (c : Byte) {b : Bm} (h : b.frame.toNat < bmFrames v) :
    bmSelect v c b < bmFrames v := by
  unfold bmSelect
  split
  · split <;> omega
  · exact h

theorem bmGate2_frame (p : Params) {v : BmVariant} (c : Byte) (b : Bm) (hrole : bmRole v = .frame) :
    bmGate2 p v c b = { b with frame := BitVec.ofNat 2 (bmSelect v c b) } := by
  have hstay : BitVec.ofNat 2 b.frame.toNat = b.frame := by rw [BitVec.ofNat_toNat, BitVec.setWidth_eq]
  unfold bmGate2 bmSelect
  rw [hrole]
  split
  · dsimp only
    split
    · rfl
    · rw [BitVec.ofNat_add, hstay]
      rfl
  · rw [hstay]

theorem ofNat_frame_toNat {v : BmVariant} {frame : Nat} (h : frame < bmFrames v) :
    (BitVec.ofNat 2 frame).toNat = frame :=
  Nat.mod_eq_of_lt (h.trans_le ((bmFrames_le v).trans (by decide)))

theorem bmBase_select {v : BmVariant} {frame : Nat} (b : Bm) (h : frame < bmFrames v) :
    bmBase v { b with frame := BitVec.ofNat 2 frame } = if v = .b then frame * 4 else 0 := by
  rw [bmBase_eq, ofNat_frame_toNat h]

/-- The base of the sequence once gate 2 has chosen the frame (R192). -/
def bmSequence (v : BmVariant) (c : Byte) (b : Bm) : Nat := if v = .b then bmSelect v c b * 4 else 0

/-- The index that the tick of a frame variant arrives at. -/
def bmArriveFrame (p : Params) (v : BmVariant) (c : Byte) (b : Bm) : Nat :=
  bmMove p c b (bmSequence v c b) (bmStart b)

/-- The sample of a frame variant. -/
def bmSampleFrame (p : Params) (v : BmVariant) (c : Byte) (b : Bm) : Half16 :=
  quantize p (readStep b.val (bmSequence v c b + bmArriveFrame p v c b))

theorem bmArriveFrame_lt (p : Params) (v : BmVariant) (c : Byte) {b : Bm} (hinv : b.Inv) :
    bmArriveFrame p v c b < b.count.toNat :=
  bmMove_lt p c _ (bmStart_lt hinv)

/-- The registers of a frame variant once gate 2 has chosen the frame and gate 1 has moved the index in it. -/
theorem bmGates_frame (p : Params) {v : BmVariant} (c : Byte) {b : Bm} (hrole : bmRole v = .frame) (hinv : b.Inv)
    (hframe : b.frame.toNat < bmFrames v) :
    bmGate1 p v c (bmGate2 p v c (bmRevalidate b)) =
      { b with idx := BitVec.ofNat 4 (bmArriveFrame p v c b), frame := BitVec.ofNat 2 (bmSelect v c b) } := by
  obtain ⟨-, hcount, -⟩ := id hinv
  have hmove := bmGate1_at p v c (b := { b with frame := BitVec.ofNat 2 (bmSelect v c b) }) (i := bmStart b)
    (bmStart_lt hinv) hcount
  rw [bmBase_select b (bmSelect_lt c hframe)] at hmove
  rw [bmRevalidate_eq, bmGate2_frame p c _ hrole]
  exact hmove

theorem bmProcess_frame (p : Params) {v : BmVariant} (c : Byte) {b : Bm} (hrole : bmRole v = .frame) (hinv : b.Inv)
    (hfor : b.InvFor v) :
    bmProcess p v c b =
      ({ b with
          idx := BitVec.ofNat 4 (bmArriveFrame p v c b)
          frame := BitVec.ofNat 2 (bmSelect v c b)
          lastQ := bmSampleFrame p v c b },
        bmSampleFrame p v c b) := by
  obtain ⟨-, hcount, -⟩ := id hinv
  obtain ⟨hframe, -, -, -, hflip, -⟩ := hfor
  have harrive := bmArriveFrame_lt p v c hinv
  have hidx : (BitVec.ofNat 4 (bmArriveFrame p v c b)).toNat = bmArriveFrame p v c b := Nat.mod_eq_of_lt (by omega)
  have hselect : (BitVec.ofNat 2 (bmSelect v c b)).toNat = bmSelect v c b := ofNat_frame_toNat (bmSelect_lt c hframe)
  simp only [bmProcess, bmGates_frame p c hrole hinv hframe, bmFollow, hrole, bmRaw, bmBase_eq, hflip hrole, hidx,
    hselect]
  rfl

/-- The playing step is one of the variant's: eight in `BM_A`, three frames of four in `BM_B` (R192). -/
theorem bmSequence_add_lt (p : Params) {v : BmVariant} (c : Byte) {b : Bm} (hrole : bmRole v = .frame) (hinv : b.Inv)
    (hfor : b.InvFor v) : bmSequence v c b + bmArriveFrame p v c b < bmCap v := by
  obtain ⟨hframe, -, -, hfour, -⟩ := hfor
  have hselect := bmSelect_lt c hframe
  have harrive := bmArriveFrame_lt p v c hinv
  obtain ⟨-, hcount, -⟩ := hinv
  cases v with
  | a =>
    have hseq : bmSequence .a c b = 0 := rfl
    simp only [bmCap]
    omega
  | b =>
    have hseq : bmSequence .b c b = bmSelect .b c b * 4 := rfl
    have hcount4 : b.count.toNat = 4 := congrArg BitVec.toNat (hfour rfl).1
    simp only [bmCap, bmFrames] at hselect ⊢
    omega
  | c | d => cases hrole

/-- Settles O33: in the frame variants gate 2 writes the frame alone, and the sequence that gate 1 advances in is that
of the frame chosen. -/
theorem procBmFrameSample : Obligations.ProcBmFrameSample := by
  intro s c v hf hv hinv hfor
  have hrole : bmRole v = .frame := by obtain rfl | rfl := hv <;> rfl
  have hstep := exec_proc_bm c hf
  rw [bmProcess_frame s.params c hrole hinv hfor] at hstep
  exact ⟨bmSequence_add_lt s.params c hrole hinv hfor, hstep⟩

/-! The flip variants (R205, R206, R209). -/

/-- An advance in the one sequence of the flip variants, at base 0. -/
theorem bmLanding_zero (p : Params) (b : Bm) (i : Nat) :
    bmLanding p b 0 i =
      if b.count.toNat ≤ i + 1 then 0
      else if (readStep b.val (i + 1)).toInt ≤ p.bmSentinel.toInt then 0 else i + 1 := by
  unfold bmLanding bmNext
  rw [Nat.zero_add]
  split
  · exact ite_self 0
  · rfl

/-- The index after gate 2: an advance on the return to base polarity. -/
def bmReturn (p : Params) (c : Byte) (b : Bm) (i : Nat) : Nat :=
  if gate2Rise c = true ∧ b.flip = true then bmLanding p b 0 i else i

/-- The polarity after gate 2. -/
def bmPolarity (c : Byte) (b : Bm) : Bool := if gate2Rise c then !b.flip else b.flip

theorem bmReturn_lt (p : Params) (c : Byte) {b : Bm} {i : Nat} (hi : i < b.count.toNat) :
    bmReturn p c b i < b.count.toNat := by
  unfold bmReturn
  split
  · exact bmLanding_lt p 0 hi
  · exact hi

theorem bmGate2_flip (p : Params) {v : BmVariant} (c : Byte) {b : Bm} {i : Nat} (hrole : bmRole v = .flip)
    (hi : i < b.count.toNat) (hcount : b.count.toNat ≤ 8) :
    bmGate2 p v c { b with idx := BitVec.ofNat 4 i } =
      { b with idx := BitVec.ofNat 4 (bmReturn p c b i), flip := bmPolarity c b } := by
  unfold bmGate2 bmReturn bmPolarity
  rw [hrole]
  cases gate2Rise c with
  | false => rfl
  | true =>
    cases hflip : b.flip with
    | false => rfl
    | true =>
      have hadvance := bmAdvance_at p v (b := { b with flip := false }) hi hcount
      rw [bmBase_of_flip hrole] at hadvance
      exact hadvance

/-- The index that the tick of a flip variant arrives at. -/
def bmArriveFlip (p : Params) (c : Byte) (b : Bm) : Nat := bmMove p c b 0 (bmReturn p c b (bmStart b))

/-- The sample of a flip variant. -/
def bmSampleFlip (p : Params) (c : Byte) (b : Bm) : Half16 :=
  quantize p (if bmPolarity c b then satneg (readStep b.val (bmArriveFlip p c b))
    else readStep b.val (bmArriveFlip p c b))

theorem bmArriveFlip_lt (p : Params) (c : Byte) {b : Bm} (hinv : b.Inv) : bmArriveFlip p c b < b.count.toNat :=
  bmMove_lt p c 0 (bmReturn_lt p c (bmStart_lt hinv))

theorem bmProcess_flip (p : Params) {v : BmVariant} (c : Byte) {b : Bm} (hrole : bmRole v = .flip) (hinv : b.Inv) :
    bmProcess p v c b =
      ({ b with
          idx := BitVec.ofNat 4 (bmArriveFlip p c b)
          frame := BitVec.ofNat 2 (bmArriveFlip p c b / 4)
          flip := bmPolarity c b
          lastQ := bmSampleFlip p c b },
        bmSampleFlip p c b) := by
  obtain ⟨-, hcount, -⟩ := id hinv
  have hstart := bmStart_lt hinv
  have harrive := bmArriveFlip_lt p c hinv
  have hidx : (BitVec.ofNat 4 (bmArriveFlip p c b)).toNat = bmArriveFlip p c b := Nat.mod_eq_of_lt (by omega)
  have hgate1 : bmGate1 p v c (bmGate2 p v c (bmRevalidate b)) =
      { b with idx := BitVec.ofNat 4 (bmArriveFlip p c b), flip := bmPolarity c b } := by
    have hmove := bmGate1_at p v c (b := { b with flip := bmPolarity c b })
      (i := bmReturn p c b (bmStart b)) (bmReturn_lt p c hstart) hcount
    rw [bmBase_of_flip hrole] at hmove
    rw [bmRevalidate_eq, bmGate2_flip p c hrole hstart hcount]
    exact hmove
  simp only [bmProcess, hgate1, bmFollow, hrole, bmRaw, bmBase_of_flip hrole, hidx, Nat.zero_add]
  rfl

/-- -32768 has no negative and saturates (R9). -/
theorem satneg_eq (x : Half16) : satneg x = if x = 0x8000 then 0x7FFF else -x := by
  have hmin : x.toInt = -32768 ↔ x = 0x8000 := BitVec.toInt_inj (y := 0x8000)
  apply BitVec.eq_of_toInt_eq
  rw [satneg_toInt]
  by_cases hx : x.toInt = -32768
  · rw [if_pos hx, if_pos (hmin.mp hx)]
    rfl
  · rw [if_neg hx, if_neg (hmin.not.mp hx), half16_toInt_neg hx]

/-- Settles O34: gate 2 and gate 1 each may advance in the one sequence, and the frame and the polarity are those of the
end of the tick. -/
theorem procBmFlipSample : Obligations.ProcBmFlipSample := by
  intro s c v hf hv hinv adv
  have hadv : adv = bmLanding s.params s.bm 0 := funext fun i => (bmLanding_zero s.params s.bm i).symm
  clear_value adv
  subst hadv
  have hrole : bmRole v = .flip := by obtain rfl | rfl := hv <;> rfl
  have hcap : bmCap v = 8 := by obtain rfl | rfl := hv <;> rfl
  have hstep := exec_proc_bm c hf
  rw [bmProcess_flip s.params c hrole hinv, bmSampleFlip, satneg_eq] at hstep
  refine ⟨?inside, hstep⟩
  rw [hcap]
  obtain ⟨-, hcount, -⟩ := id hinv
  exact (bmArriveFlip_lt s.params c hinv).trans_le hcount

end Sys2Proof.Machine

/-! Configure as an operation of the state: what it writes, and that a second Configure changes nothing
(44_processor_engine.md rules R236, R237 and R262). -/

namespace Sys2Proof.Machine

/-! One knob slot of BM: recording a knob twice, and recording two knobs in either order (R200). -/

theorem bmLatch_of_eq {v : BmVariant} {e : Knobs} {b : Bm} {k : Fin 4} (h : e[k.val] = b.snap[k.val]) :
    bmLatch v e b k = b := if_neg (not_not.mpr h)

/-- The step values after one knob slot; the snapshots are `bmLatch_snap`. -/
def bmLatchVal (v : BmVariant) (e : Knobs) (b : Bm) (k : Fin 4) : List Half16 :=
  if e[k.val] ≠ b.snap[k.val] ∧ b.frame.toNat * 4 + k.val < bmCap v then
    writeStep b.val (b.frame.toNat * 4 + k.val) (bipolar e[k.val])
  else b.val

theorem bmLatch_val (v : BmVariant) (e : Knobs) (b : Bm) (k : Fin 4) :
    (bmLatch v e b k).val = bmLatchVal v e b k := by
  unfold bmLatch bmLatchVal
  split
  next hmoved => simp only [hmoved, not_false_eq_true, true_and, ne_eq]
  next hsame => rw [if_neg fun h => hsame h.1]

theorem bmLatch_fields (v : BmVariant) (e : Knobs) (b : Bm) (k : Fin 4) :
    bmLatch v e b k = { b with val := bmLatchVal v e b k, snap := b.snap.set k.val e[k.val] } := by
  obtain ⟨val, snap, hlatch⟩ := bmLatch_eq v e b k
  rw [← bmLatch_val, ← bmLatch_snap v, hlatch]

/-- Two slots write two steps and two snapshots. -/
theorem bmLatch_comm (v : BmVariant) (e e' : Knobs) (b : Bm) {j k : Fin 4} (h : j ≠ k) :
    bmLatch v e (bmLatch v e' b k) j = bmLatch v e' (bmLatch v e b j) k := by
  have hjk : j.val ≠ k.val := Fin.val_ne_of_ne h
  have hkj : k.val ≠ j.val := hjk.symm
  have hplace : b.frame.toNat * 4 + k.val ≠ b.frame.toNat * 4 + j.val := by omega
  simp only [bmLatch_fields, bmLatchVal, Vector.getElem_set_ne _ _ hjk, Vector.getElem_set_ne _ _ hkj,
    Vector.set_comm _ _ hkj]
  congr 1
  split <;> split <;> simp only [writeStep, List.set_comm _ _ hplace]

/-- A slot whose knob had not moved, or has the same position again, is as if it had been recorded once. -/
theorem bmLatch_bmLatch_same {v : BmVariant} {e e' : Knobs} {b : Bm} {k : Fin 4}
    (h : e'[k.val] = b.snap[k.val] ∨ e'[k.val] = e[k.val]) :
    bmLatch v e (bmLatch v e' b k) k = bmLatch v e b k := by
  obtain hsame | hagain := h
  · rw [bmLatch_of_eq hsame]
  · have hrecorded : e[k.val] = (bmLatch v e' b k).snap[k.val] := by
      rw [bmLatch_snap, Vector.getElem_set_self, hagain]
    have honce : bmLatch v e' b k = bmLatch v e b k := by simp only [bmLatch, hagain]
    rw [bmLatch_of_eq hrecorded, honce]

theorem foldl_bmLatch_comm (v : BmVariant) (e e' : Knobs) {k : Fin 4} {l : List (Fin 4)} (hk : k ∉ l) (b : Bm) :
    bmLatch v e (l.foldl (bmLatch v e') b) k = l.foldl (bmLatch v e') (bmLatch v e b k) := by
  induction l generalizing b with
  | nil => rfl
  | cons j l ih =>
    obtain ⟨hkj, hkl⟩ := not_or.mp (List.mem_cons.not.mp hk)
    rw [List.foldl_cons, List.foldl_cons, ih hkl, bmLatch_comm v e e' b hkj]

/-- The slots of a list recorded twice: only the second positions count, if no knob moved twice. -/
theorem foldl_bmLatch_foldl_bmLatch {v : BmVariant} {e e' : Knobs} {l : List (Fin 4)} (hl : l.Nodup) {b : Bm}
    (h : ∀ k ∈ l, e'[k.val] = b.snap[k.val] ∨ e'[k.val] = e[k.val]) :
    l.foldl (bmLatch v e) (l.foldl (bmLatch v e') b) = l.foldl (bmLatch v e) b := by
  induction l generalizing b with
  | nil => rfl
  | cons k l ih =>
    obtain ⟨hkl, hl⟩ := List.nodup_cons.mp hl
    have hrest : ∀ j ∈ l, e'[j.val] = (bmLatch v e b k).snap[j.val] ∨ e'[j.val] = e[j.val] := by
      intro j hj
      have hkj : k.val ≠ j.val := fun hval => hkl (Fin.ext hval ▸ hj)
      rw [bmLatch_snap, Vector.getElem_set_ne _ _ hkj]
      exact h j (List.mem_cons_of_mem k hj)
    rw [List.foldl_cons, List.foldl_cons, List.foldl_cons, foldl_bmLatch_comm v e e' hkl,
      bmLatch_bmLatch_same (h k List.mem_cons_self), ih hl hrest]

theorem bmSlots_nodup (v : BmVariant) : (bmSlots v).Nodup := by cases v <;> decide

/-- Recording knobs does not read the count. -/
theorem foldl_bmLatch_count (v : BmVariant) (e : Knobs) (n : BitVec 5) (l : List (Fin 4)) (b : Bm) :
    l.foldl (bmLatch v e) { b with count := n } = { l.foldl (bmLatch v e) b with count := n } :=
  List.foldl_hom (fun b : Bm => { b with count := n }) fun b k => by simp only [bmLatch_fields, bmLatchVal]

/-! Configure of each family over registers that a Configure has written. -/

theorem rizmConfigure_rizmConfigure (e e' : Knobs) (r : Rizm) :
    rizmConfigure e (rizmConfigure e' r) = rizmConfigure e r := rfl

theorem palConfigure_palConfigure (e e' : Knobs) (q : Pal) :
    palConfigure e (palConfigure e' q) = palConfigure e q := rfl

/-- For BM a first Configure leaves no trace where no knob of the variant moved twice. -/
theorem bmConfigure_bmConfigure {v : BmVariant} {e e' : Knobs} {b : Bm}
    (h : ∀ k ∈ bmSlots v, e'[k.val] = b.snap[k.val] ∨ e'[k.val] = e[k.val]) :
    bmConfigure v e (bmConfigure v e' b) = bmConfigure v e b := by
  simp only [bmConfigure, foldl_bmLatch_count, foldl_bmLatch_foldl_bmLatch (bmSlots_nodup v) h]

/-! The whole state. -/

theorem configure_of_func {s : State} {f : Fn} (hf : s.func = f) : s.configure = configureFn f s :=
  congrArg (configureFn · s) hf

/-- `configureFn` writes nothing but registers of functions (R236). -/
theorem configureFn_frame (f : Fn) (s : State) :
    configureFn f s = { s with
      rizm := (configureFn f s).rizm
      pal := (configureFn f s).pal
      bm := (configureFn f s).bm
      exts := (configureFn f s).exts } := by
  cases f <;> rfl

/-- Configure reads neither the port nor the response. -/
theorem configureFn_setPorts (f : Fn) (s : State) (port : List PortEvent) (rsp : Option Response) :
    configureFn f { s with port := port, rsp := rsp } =
      ({ configureFn f s with port := port, rsp := rsp } : State) := by
  cases f <;> rfl

theorem configure_setPorts (s : State) (port : List PortEvent) (rsp : Option Response) :
    ({ s with port := port, rsp := rsp } : State).configure =
      ({ s.configure with port := port, rsp := rsp } : State) :=
  configureFn_setPorts s.func s port rsp

/-- Two updates of one slot are one. -/
theorem updateExt_updateExt (x : Vector (Option ExtInst) 8) (k : Fin 8) (f g : Nat → Nat) :
    updateExt (updateExt x k f) k g = updateExt x k (g ∘ f) := by
  simp only [updateExt, Vector.getElem_set_self, Vector.set_set, Option.map_map, Function.comp_def]

/-- A second Configure changes nothing (R237); for a collaborator by R262. -/
theorem configureFn_configureFn (f : Fn) (s : State) : configureFn f (configureFn f s) = configureFn f s := by
  cases f with
  | rizm => simp only [configureFn, rizmConfigure_rizmConfigure]
  | pal v => simp only [configureFn, palConfigure_palConfigure]
  | bm v => simp only [configureFn, bmConfigure_bmConfigure fun _ _ => .inr rfl]
  | ext k =>
    have hidem : extConfigure k s.p s.mode ∘ extConfigure k s.p s.mode = extConfigure k s.p s.mode :=
      funext (extConfigure_idem k s.p s.mode)
    simp only [configureFn, updateExt_updateExt, hidem]

theorem configure_configure (s : State) : s.configure.configure = s.configure :=
  (configure_of_func s.configure_func).trans (configureFn_configureFn s.func s)

end Sys2Proof.Machine

/-! The derived registers of the active function agree with knobs and mode after every step: each command either ends
in a Configure, or writes no register that a Configure reads or derives (44_processor_engine.md rules R236 and R237). -/

namespace Sys2Proof.Machine

/-! What a tick leaves of a Configure that changes nothing. -/

theorem rizmConfigure_of_tick (p : Params) (c : Byte) {e : Knobs} {r : Rizm} (h : rizmConfigure e r = r) :
    rizmConfigure e (rizmProcess p c r).1 = (rizmProcess p c r).1 :=
  congrArg (fun r' : Rizm => { r' with step := rizmStep c r.step }) h

/-- The six derived registers are functions of the knobs. -/
theorem palConfigure_eq_self_iff {e : Knobs} {q : Pal} :
    palConfigure e q = q ↔ (palConfigure e q).SameScalars q := by
  constructor
  · intro h
    rw [h]
    exact ⟨rfl, rfl, rfl, rfl, rfl, rfl⟩
  · rintro ⟨hcount, hs1, hoffset, hmetro, hcompose, hdecompose⟩
    cases q
    simp_all [palConfigure]

theorem palConfigure_of_tick (p : Params) {v : PalVariant} (c : Byte) {e : Knobs} {q : Pal}
    (h : palConfigure e q = q) : palConfigure e (palProcess p v c q).1 = (palProcess p v c q).1 := by
  obtain ⟨hcount, hs1, hoffset, hmetro, hcompose, hdecompose⟩ := palProcess_scalars p v c q
  obtain ⟨kcount, ks1, koffset, kmetro, kcompose, kdecompose⟩ := palConfigure_eq_self_iff.mp h
  exact palConfigure_eq_self_iff.mpr ⟨kcount.trans hcount.symm, ks1.trans hs1.symm, koffset.trans hoffset.symm,
    kmetro.trans hmetro.symm, kcompose.trans hcompose.symm, kdecompose.trans hdecompose.symm⟩

/-- A Configure of BM changes nothing exactly where every knob of the variant stands at its snapshot and the count is
the one it derives. -/
theorem bmConfigure_eq_self_iff {v : BmVariant} {e : Knobs} {b : Bm} :
    bmConfigure v e b = b ↔ (∀ k ∈ bmSlots v, e[k.val] = b.snap[k.val]) ∧ bmCount v e = b.count := by
  constructor
  · intro h
    refine ⟨fun k hk => ?_, congrArg Bm.count h⟩
    rw [← h, bmConfigure_snap, if_pos hk]
  · rintro ⟨hknobs, hcount⟩
    have hlatch : (bmSlots v).foldl (bmLatch v e) b = b :=
      List.foldlRecOn (motive := fun c : Bm => c = b) (bmSlots v) (bmLatch v e) rfl
        (by rintro _ rfl k hk; exact bmLatch_of_eq (hknobs k hk))
    rw [bmConfigure, hlatch, hcount]

theorem bmConfigure_of_tick (p : Params) {v : BmVariant} (c : Byte) {e : Knobs} {b : Bm}
    (h : bmConfigure v e b = b) : bmConfigure v e (bmProcess p v c b).1 = (bmProcess p v c b).1 := by
  obtain ⟨-, hcount, hsnap⟩ := bmProcess_latched p v c b
  rw [bmConfigure_eq_self_iff, hcount, hsnap]
  exact bmConfigure_eq_self_iff.mp h

/-! `State.Configured`: where it comes from, and that it reads neither the port nor the response. -/

theorem configured_configure (s : State) : s.configure.Configured := fun _ => configure_configure s

theorem State.Configured.setPorts {s : State} (h : s.Configured) (port : List PortEvent) (rsp : Option Response) :
    ({ s with port := port, rsp := rsp } : State).Configured := by
  intro hf
  rw [configure_setPorts, h hf]

theorem State.Configured.respond {s : State} (h : s.Configured) (v : Half16) : (s.respond v).Configured :=
  h.setPorts s.port _

/-- With a collaborator active nothing is asked. -/
theorem configured_of_ext {s : State} {k : Fin 8} (hf : s.func = .ext k) : s.Configured :=
  fun h => absurd hf (h k)

theorem configured_rizm_iff {s : State} (hf : s.func = .rizm) :
    s.Configured ↔ rizmConfigure (effective s.mode s.params.half.rizm s.p) s.rizm = s.rizm := by
  constructor
  · intro h
    have hscope : ∀ k, s.func ≠ .ext k := by simp [hf]
    exact congrArg State.rizm ((configure_of_func hf).symm.trans (h hscope))
  · intro h _
    exact (configure_of_func hf).trans (congrArg (fun x => { s with rizm := x }) h)

theorem configured_pal_iff {s : State} {v : PalVariant} (hf : s.func = .pal v) :
    s.Configured ↔ palConfigure (effective s.mode (HalfTable.pal s.params.half v) s.p) s.pal = s.pal := by
  constructor
  · intro h
    have hscope : ∀ k, s.func ≠ .ext k := by simp [hf]
    exact congrArg State.pal ((configure_of_func hf).symm.trans (h hscope))
  · intro h _
    exact (configure_of_func hf).trans (congrArg (fun x => { s with pal := x }) h)

theorem configured_bm_iff {s : State} {v : BmVariant} (hf : s.func = .bm v) :
    s.Configured ↔ bmConfigure v (effective s.mode (HalfTable.bm s.params.half v) s.p) s.bm = s.bm := by
  constructor
  · intro h
    have hscope : ∀ k, s.func ≠ .ext k := by simp [hf]
    exact congrArg State.bm ((configure_of_func hf).symm.trans (h hscope))
  · intro h _
    exact (configure_of_func hf).trans (congrArg (fun x => { s with bm := x }) h)

/-! Commands. -/

/-- What a step must do for the derived registers to stay in agreement. -/
abbrev KeepsConfigured (o : Host.Outcome State Fault Refusal) : Prop := ∀ t, o = .next t → t.Configured

theorem keepsConfigured_next {t : State} (h : t.Configured) : KeepsConfigured (.next t) := by
  rintro _ ⟨⟩
  exact h

theorem keepsConfigured_refused (r : Refusal) : KeepsConfigured (.refused r) := by
  rintro _ ⟨⟩

/-- A command that ends in a Configure. -/
theorem keepsConfigured_dispatched (s u : State) : KeepsConfigured (s.dispatched (u.configure.respond 0)) := by
  intro t ht
  obtain ⟨-, rfl⟩ := (dispatched_next _ _ _).mp ht
  exact (configured_configure u).respond 0

theorem execSetfn_keepsConfigured (f : Fn) {s : State} (h : s.Configured) : KeepsConfigured (execSetfn f s) := by
  unfold execSetfn
  split
  · exact keepsConfigured_next ((configured_configure _).respond 0)
  · exact keepsConfigured_next (h.setPorts s.port _)

/-- PROC and BUF keep `FUNC`, so with a collaborator active they leave one active. -/
theorem execProc_keepsConfigured (c : Byte) {s : State} (h : s.Configured) : KeepsConfigured (execProc c s) := by
  cases hf : s.func with
  | rizm =>
    rw [execProc_rizm c hf]
    have hnext : ({ s with rizm := (rizmProcess s.params c s.rizm).1 } : State).Configured :=
      (configured_rizm_iff (by exact hf)).mpr (rizmConfigure_of_tick s.params c ((configured_rizm_iff hf).mp h))
    exact keepsConfigured_next (hnext.respond _)
  | pal v =>
    rw [execProc_pal c hf]
    have hnext : ({ s with pal := (palProcess s.params v c s.pal).1 } : State).Configured :=
      (configured_pal_iff (by exact hf)).mpr (palConfigure_of_tick s.params c ((configured_pal_iff hf).mp h))
    exact keepsConfigured_next (hnext.respond _)
  | bm v =>
    rw [execProc_bm c hf]
    have hnext : ({ s with bm := (bmProcess s.params v c s.bm).1 } : State).Configured :=
      (configured_bm_iff (by exact hf)).mpr (bmConfigure_of_tick s.params c ((configured_bm_iff hf).mp h))
    exact keepsConfigured_next (hnext.respond _)
  | ext k =>
    match he : s.exts[k.val] with
    | none =>
      rw [execProc_absent c hf he]
      exact keepsConfigured_refused _
    | some ⟨.unbuffered, st⟩ =>
      rw [execProc_unbuffered c hf he]
      exact keepsConfigured_next (configured_of_ext (k := k) hf)
    | some ⟨.buffered, st⟩ =>
      rw [execProc_buffered c hf he]
      exact keepsConfigured_next (configured_of_ext (k := k) hf)

theorem execBuf_keepsConfigured {s : State} (h : s.Configured) : KeepsConfigured (execBuf s) := by
  by_cases hscope : ∀ k, s.func ≠ .ext k
  · rw [execBuf_inScope hscope]
    exact keepsConfigured_next (h.respond 0)
  · push Not at hscope
    obtain ⟨k, hf⟩ := hscope
    match he : s.exts[k.val] with
    | none =>
      rw [execBuf_absent hf he]
      exact keepsConfigured_refused _
    | some ⟨.unbuffered, st⟩ =>
      rw [execBuf_unbuffered hf he]
      exact keepsConfigured_next (h.respond 0)
    | some ⟨.buffered, st⟩ =>
      rw [execBuf_buffered hf he]
      split
      · exact keepsConfigured_next (configured_of_ext (k := k) hf)
      · exact keepsConfigured_next (h.respond 0)

theorem execLedf_keepsConfigured {s : State} (h : s.Configured) : KeepsConfigured (execLedf s) := by
  unfold execLedf
  split <;> exact keepsConfigured_next (h.respond _)

theorem execLedn_keepsConfigured {s : State} (h : s.Configured) : KeepsConfigured (execLedn s) := by
  unfold execLedn
  split <;> exact keepsConfigured_next (h.respond _)

theorem exec_keepsConfigured (i : Instr) {s : State} (h : s.Configured) : KeepsConfigured (exec i s) := by
  cases i with
  | init index => exact keepsConfigured_next ((configured_configure _).respond 0)
  | setfn f => exact execSetfn_keepsConfigured f h
  | setmode m => exact keepsConfigured_dispatched s _
  | setpar idx value => exact keepsConfigured_dispatched s _
  | cpypar values => exact keepsConfigured_dispatched s _
  | proc c => exact execProc_keepsConfigured c h
  | buf => exact execBuf_keepsConfigured h
  | cfg => exact keepsConfigured_dispatched s _
  | qnt raw => exact keepsConfigured_next (h.respond _)
  | ledf => exact execLedf_keepsConfigured h
  | ledn => exact execLedn_keepsConfigured h

/-- Settles O59: a reset and a command that configures end in a Configure, which is idempotent; every other step writes
no register that a Configure reads or derives. -/
theorem stepKeepsDerivedRegistersConfigured : Obligations.StepKeepsDerivedRegistersConfigured := by
  intro s t h
  suffices hkeeps : KeepsConfigured (step s) from hkeeps t
  cases hfetch : fetch s.port with
  | idle =>
    rw [step_of_fetch_idle hfetch]
    exact keepsConfigured_next (h.setPorts s.port none)
  | reset rest =>
    have hinit : (s.initAll 0).Configured := configured_configure _
    rw [step_of_fetch_reset hfetch]
    exact keepsConfigured_next (hinit.setPorts rest none)
  | refused r rest =>
    rw [step_of_fetch_refused hfetch]
    exact keepsConfigured_next (h.setPorts rest _)
  | command i rest =>
    rw [step_of_fetch_command hfetch]
    exact exec_keepsConfigured i (h.setPorts rest s.rsp)

end Sys2Proof.Machine

/-! The commands that write knobs or mode and then configure, each in the state that CFG gives on the new values
(44_processor_engine.md rules R235 to R244). -/

namespace Sys2Proof.Machine

/-! CFG. -/

/-- The operations of a function exist where it is in scope or its slot is present (R286). -/
theorem selectable_of_present {s : State} {f : Fn} (h : ∀ k, f = .ext k → (s.exts[k.val]).isSome = true) :
    s.selectable f = true := by
  cases f with
  | ext k => exact h k rfl
  | _ => rfl

theorem exec_cfg_of_selectable {s : State} (hsel : s.selectable s.func = true) :
    exec .cfg s = .next (s.configure.respond 0) :=
  dispatched_of_selectable s _ hsel

/-- What the commands that end in a Configure leave unchanged (R236). -/
theorem configure_respond_frame (s : State) (v : Half16) :
    s.configure.respond v = { s with
      rizm := (s.configure.respond v).rizm
      pal := (s.configure.respond v).pal
      bm := (s.configure.respond v).bm
      exts := (s.configure.respond v).exts
      rsp := some ⟨v, false⟩ } :=
  congrArg (State.respond · v) (configureFn_frame s.func s)

/-- Settles O21: SETMODE is CFG on the new mode. -/
theorem setmodeWritesModeAndConfigures : Obligations.SetmodeWritesModeAndConfigures := fun s m hsel =>
  ⟨_, dispatched_of_selectable s _ hsel, exec_cfg_of_selectable hsel, configure_respond_frame { s with mode := m } 0⟩

/-- Settles O22: SETPAR is CFG on the vector with one register new. -/
theorem setparWritesOneRegister : Obligations.SetparWritesOneRegister := by
  intro s idx value hsel
  refine ⟨_, dispatched_of_selectable s _ hsel, ?_⟩
  simp only [State.respond_p, State.configure_p, State.setParam_p]
  refine ⟨exec_cfg_of_selectable hsel, fun k => ?_, configure_respond_frame (s.setParam idx value) 0⟩
  simp only [Vector.getElem_set, Fin.val_inj, eq_comm]

/-! CPYPAR. -/

/-- The registers below the number of values are written, the others keep theirs (R244). -/
theorem getElem_copyParams (values : List Half16) (p : Knobs) (k : Fin 4) :
    (copyParams values p)[k.val] = values.getD k.val p[k.val] := by
  fin_cases k <;> rfl

theorem copyParams_nil (p : Knobs) : copyParams [] p = p :=
  Vector.ext fun k hk => getElem_copyParams [] p ⟨k, hk⟩

/-- Settles O23: CPYPAR is CFG on the new vector. -/
theorem cpyparWritesPrefixThenConfigures : Obligations.CpyparWritesPrefixThenConfigures := by
  intro s values _ hsel
  refine ⟨_, dispatched_of_selectable s _ hsel, ?_⟩
  simp only [State.respond_p, State.configure_p]
  refine ⟨exec_cfg_of_selectable hsel, getElem_copyParams values s.p, ?_, configure_respond_frame _ 0⟩
  rintro rfl
  exact copyParams_nil s.p

/-! Collaborators. -/

/-- An update of a present slot. -/
theorem getElem_updateExt_of_some {x : Vector (Option ExtInst) 8} {k : Fin 8} {e : ExtInst} (hx : x[k.val] = some e)
    (f : Nat → Nat) (j : Fin 8) :
    (updateExt x k f)[j.val] = if j = k then some { e with st := f e.st } else x[j.val] := by
  rw [getElem_updateExt]
  by_cases hjk : j = k
  · subst hjk
    rw [if_pos rfl, if_pos rfl, hx, Option.map_some]
  · rw [if_neg (Ne.symm hjk), if_neg hjk]

/-- Settles O20. -/
theorem cfgConfiguresCollaborator : Obligations.CfgConfiguresCollaborator := by
  intro s k x hf hx
  have hsel : s.selectable s.func = true := by rw [hf, State.selectable, hx, Option.isSome_some]
  have hcfg := exec_cfg_of_selectable hsel
  rw [configure_of_func hf] at hcfg
  exact ⟨_, hcfg, rfl, getElem_updateExt_of_some hx _⟩

/-! CFG after a command that has configured (R237). -/

theorem configure_respond (s : State) (v : Half16) : (s.respond v).configure = s.configure.respond v := by
  have hfn (f : Fn) : configureFn f (s.respond v) = (configureFn f s).respond v := by cases f <;> rfl
  exact hfn s.func

/-- Which functions can be selected is kept by all that keeps what functions share. -/
theorem selectable_of_shared {s t : State} (h : s.shared = t.shared) (f : Fn) : s.selectable f = t.selectable f := by
  obtain ⟨-, -, -, -, -, -, -, -, -, hslots⟩ := State.shared_eq_iff.mp h
  exact selectable_congr hslots f

theorem selectable_configure (s : State) (f : Fn) : s.configure.selectable f = s.selectable f :=
  selectable_of_shared (configureFn_shared _ _) f

theorem selectable_initFn (g : Fn) (s : State) (f : Fn) : (initFn g s).selectable f = s.selectable f :=
  selectable_of_shared (initFn_shared g s) f

/-- A command that configures and is not refused ends in the Configure of a function whose operations exist. -/
theorem exec_ends_in_configure {s t : State} {i : Instr}
    (hi : (∃ c, i = .init c) ∨ (∃ f, i = .setfn f) ∨ i = .cfg ∨ (∃ m, i = .setmode m) ∨ (∃ k x, i = .setpar k x) ∨
      ∃ xs, i = .cpypar xs)
    (h : exec i s = .next t) (hrsp : t.rsp = some ⟨0, false⟩) :
    ∃ u : State, u.selectable u.func = true ∧ t = u.configure.respond 0 := by
  obtain ⟨index, rfl⟩ | ⟨f, rfl⟩ | rfl | ⟨m, rfl⟩ | ⟨k, x, rfl⟩ | ⟨xs, rfl⟩ := hi
  · cases h
    exact ⟨_, rfl, rfl⟩
  · change execSetfn f s = .next t at h
    unfold execSetfn at h
    split at h
    next hsel =>
      cases h
      refine ⟨_, ?_, rfl⟩
      rw [State.flush_func, initFn_func]
      exact (selectable_initFn f { s with func := f } f).trans hsel
    next =>
      cases h
      simp at hrsp
  · obtain ⟨hsel, rfl⟩ := (dispatched_next _ _ _).mp h
    exact ⟨s, hsel, rfl⟩
  · obtain ⟨hsel, rfl⟩ := (dispatched_next _ _ _).mp h
    exact ⟨{ s with mode := m }, hsel, rfl⟩
  · obtain ⟨hsel, rfl⟩ := (dispatched_next _ _ _).mp h
    exact ⟨s.setParam k x, hsel, rfl⟩
  · obtain ⟨hsel, rfl⟩ := (dispatched_next _ _ _).mp h
    exact ⟨{ s with p := copyParams xs s.p }, hsel, rfl⟩

/-- Settles O25: the CFG repeats the Configure in which the command before it ended. -/
theorem cfgAfterConfigureChangesNothing : Obligations.CfgAfterConfigureChangesNothing := by
  intro s t i hi h hrsp
  obtain ⟨u, hsel, rfl⟩ := exec_ends_in_configure hi h hrsp
  have hsel' : (u.configure.respond 0).selectable (u.configure.respond 0).func = true := by
    rw [State.respond_func, State.configure_func]
    exact (selectable_configure u u.func).trans hsel
  rw [exec_cfg_of_selectable hsel', configure_respond, configure_configure]
  rfl

/-! HALF mode. -/

/-- In HALF mode the effective vector does not read `P[2]` and `P[3]` (R97). -/
theorem effective_half_set (row : HalfRow) (p : Knobs) {idx : Fin 4} (h : 2 ≤ idx.val) (value : Half16) :
    effective .half row (p.set idx.val value) = effective .half row p := by
  have hdefault (d : HalfDefault) : HalfDefault.value d (p.set idx.val value) = HalfDefault.value d p := by
    cases d with
    | fix c => rfl
    | mir j => exact Vector.getElem_set_ne _ _ (by omega)
  have h0 : (p.set idx.val value)[0] = p[0] := Vector.getElem_set_ne _ _ (by omega)
  have h1 : (p.set idx.val value)[1] = p[1] := Vector.getElem_set_ne _ _ (by omega)
  simp only [effective, hdefault, h0, h1]

/-- In HALF mode a new `P[2]` or `P[3]` changes nothing that Configure gives an in-scope function (R242 (b)). -/
theorem configureFn_setParam_half {f : Fn} {s : State} (hf : ∀ k, f ≠ .ext k) (hmode : s.mode = .half) {idx : Fin 4}
    (hidx : 2 ≤ idx.val) (value : Half16) :
    configureFn f (s.setParam idx value) = { configureFn f s with p := s.p.set idx.val value } := by
  cases f with
  | ext k => exact absurd rfl (hf k)
  | _ =>
    simp only [configureFn, State.setParam, hmode, effective_half_set _ _ hidx]

/-- Settles O27. -/
theorem halfModeHidesUpperKnobs : Obligations.HalfModeHidesUpperKnobs := by
  intro s idx value hmode hidx hscope
  have hsel : s.selectable s.func = true := selectable_of_present fun k hf => absurd hf (hscope k)
  refine ⟨_, _, dispatched_of_selectable s _ hsel, exec_cfg_of_selectable hsel, ?frame, ?written⟩
  case frame =>
    rw [State.respond_p, State.configure_p]
    exact congrArg (State.respond · 0) (configureFn_setParam_half hscope hmode hidx value)
  case written =>
    rw [State.respond_p, State.configure_p]
    exact Vector.getElem_set_self _

end Sys2Proof.Machine

/-! INIT and SETFN: the state they leave, whatever came before (44_processor_engine.md rules R232 and R238;
45_laws.md rule R266 (b) and (c)). -/

namespace Sys2Proof.Machine

/-- INIT leaves the reset state with `CHAN = index`, but for the slots, the port and the response (R232, R33). -/
theorem initAll_eq (index : Byte) (s : State) :
    s.initAll index = { State.resetWith s.params with
      chan := index, exts := initExts index s.exts, port := s.port, rsp := s.rsp } := by
  have hrizm : rizmConfigure (Vector.replicate 4 0x8000) (rizmInit s.rizm) = Rizm.reset :=
    (rizmConfigure_rizmInit _ s.rizm Rizm.reset).trans rizmConfigure_reset
  have hother : s.initAll index = { State.resetWith s.params with
      rizm := rizmConfigure (Vector.replicate 4 0x8000) (rizmInit s.rizm)
      chan := index, exts := initExts index s.exts, port := s.port, rsp := s.rsp } := rfl
  rw [hother, hrizm]
  rfl

/-- Settles O11. -/
theorem initLeavesResetState : Obligations.InitLeavesResetState := by
  intro s index
  have hexec : exec (.init index) s = .next ((s.initAll index).respond 0) := rfl
  rw [initAll_eq] at hexec
  exact ⟨_, hexec, rfl, fun k => Vector.getElem_replicate _, rfl, rfl, rfl, rfl, rfl, rfl, rfl, rfl, rfl, rfl, rfl, rfl,
    rfl, rfl, rfl, rfl, rfl, rfl, rfl, fun k => Vector.getElem_replicate _, rfl, rfl, getElem_initExts index s.exts,
    rfl, rfl, rfl⟩

/-! `initFn` writes no register of a function it does not name (R238). -/

theorem initFn_frame (f : Fn) (s : State) :
    initFn f s = { s with
      rizm := (initFn f s).rizm, pal := (initFn f s).pal, bm := (initFn f s).bm, exts := (initFn f s).exts } := by
  cases f <;> rfl

theorem initFn_rizm_of_ne {f : Fn} (s : State) (hf : f ≠ .rizm) : (initFn f s).rizm = s.rizm := by
  cases f with
  | rizm => exact absurd rfl hf
  | _ => rfl

theorem initFn_pal_of_ne {f : Fn} (s : State) (hf : ∀ v, f ≠ .pal v) : (initFn f s).pal = s.pal := by
  cases f with
  | pal v => exact absurd rfl (hf v)
  | _ => rfl

theorem initFn_bm_of_ne {f : Fn} (s : State) (hf : ∀ v, f ≠ .bm v) : (initFn f s).bm = s.bm := by
  cases f with
  | bm v => exact absurd rfl (hf v)
  | _ => rfl

theorem initFn_ext_of_ne {f : Fn} (s : State) {k : Fin 8} (hf : f ≠ .ext k) :
    (initFn f s).exts[k.val] = s.exts[k.val] := by
  cases f with
  | ext j =>
    have hjk : j ≠ k := fun h => hf (congrArg Fn.ext h)
    exact (getElem_updateExt s.exts j _ k).trans (if_neg hjk)
  | _ => rfl

/-- SETFN with the queues emptied and the response given first: neither init nor Configure reads them (R238). -/
theorem execSetfn_eq {s : State} {f : Fn} (hsel : s.selectable f = true) :
    execSetfn f s =
      .next (initFn f { s with func := f, inq := [], outq := [], rsp := some ⟨0, false⟩ }).configure := by
  rw [execSetfn_of_selectable hsel, configure_of_func (initFn_func f _)]
  cases f <;> rfl

/-- Settles O12: init and Configure write the registers of the selected function alone. -/
theorem setfnSelectsAndFlushes : Obligations.SetfnSelectsAndFlushes := by
  intro s f hpresent
  have hexec := execSetfn_eq (selectable_of_present hpresent)
  rw [configure_of_func (initFn_func f _)] at hexec
  refine ⟨_, hexec, ?frame, fun hf => ?_, fun hf => ?_, fun hf => ?_, fun k hf => ?_⟩
  case frame => rw [configureFn_frame, initFn_frame]
  · exact (configureFn_rizm_of_ne _ hf).trans (initFn_rizm_of_ne _ hf)
  · exact (configureFn_pal_of_ne _ hf).trans (initFn_pal_of_ne _ hf)
  · exact (configureFn_bm_of_ne _ hf).trans (initFn_bm_of_ne _ hf)
  · exact (configureFn_ext_of_ne _ hf).trans (initFn_ext_of_ne _ hf)

/-- Settles O16: once SETFN has emptied the queues and replaced the response, the two states agree on what functions
share, and init and Configure leave registers that depend on nothing else. -/
theorem setfnErasesHistory : Obligations.SetfnErasesHistory := by
  intro s t f hp hmode hchan hparams hport hslots hsel
  have hselected : ({ s with func := f, inq := [], outq := [], rsp := some ⟨0, false⟩ } : State).shared =
      ({ t with func := f, inq := [], outq := [], rsp := some ⟨0, false⟩ } : State).shared :=
    State.shared_eq_iff.mpr ⟨hp, rfl, hchan, hmode, rfl, rfl, hparams, hport, rfl, hslots⟩
  exact ⟨_, _, execSetfn_eq hsel, execSetfn_eq ((selectable_congr hslots f).symm.trans hsel),
    agree_configure_initFn rfl hselected⟩

end Sys2Proof.Machine

/-! Sequences of SETPAR, and the one CPYPAR of the vector they end in (45_laws.md rule R266 (d)). -/

namespace Sys2Proof.Machine

/-- The words of a command at the head of the port are executed as that command (R91). -/
theorem step_of_encode {s : State} {i : Instr} {rest : List PortEvent} (hwf : i.wf = true)
    (hport : s.port = (encode i).map .word ++ rest) : step s = exec i { s with port := rest } := by
  obtain ⟨w, ds, hwords, -, hlen⟩ := encode_shape i hwf
  have hdecode : decode (w :: ds) = .ok i :=
    (decode_cons_of_length_eq hlen).trans (decodeCommand_of_encode hwf hwords)
  rw [hwords] at hport
  exact stepRunsDecodedCommand s w ds rest i hport hlen hdecode

/-! The run of a sequence. A pair is the register a SETPAR names and its value. -/

/-- One SETPAR command as it stands on the port. -/
def setparEvent (w : Fin 4 × Half16) : PortEvent := .word (mkWord 0x4 (BitVec.ofNat 8 w.1.val) w.2)

/-- The state in which one SETPAR completes. -/
def afterSetpar (s : State) (w : Fin 4 × Half16) : State := (s.setParam w.1 w.2).configure.respond 0

theorem afterSetpar_p (s : State) (w : Fin 4 × Half16) : (afterSetpar s w).p = s.p.set w.1.val w.2 :=
  State.configure_p _

theorem afterSetpar_func (s : State) (w : Fin 4 × Half16) : (afterSetpar s w).func = s.func :=
  State.configure_func _

theorem afterSetpar_selectable {s : State} (h : s.selectable s.func = true) (w : Fin 4 × Half16) :
    (afterSetpar s w).selectable (afterSetpar s w).func = true := by
  rw [afterSetpar_func]
  exact (selectable_configure (s.setParam w.1 w.2) s.func).trans h

theorem afterSetpar_setPort (s : State) (w : Fin 4 × Half16) (port : List PortEvent) :
    ({ afterSetpar s w with port := port } : State) = afterSetpar { s with port := port } w := by
  have hfn (f : Fn) : ({ (configureFn f (s.setParam w.1 w.2)).respond 0 with port := port } : State) =
      (configureFn f (({ s with port := port } : State).setParam w.1 w.2)).respond 0 := by cases f <;> rfl
  exact hfn s.func

theorem step_setparEvent {s : State} (hsel : s.selectable s.func = true) {w : Fin 4 × Half16} {rest : List PortEvent}
    (hport : s.port = setparEvent w :: rest) : step s = .next (afterSetpar { s with port := rest } w) :=
  (step_of_encode (i := .setpar w.1 w.2) rfl hport).trans (dispatched_of_selectable _ _ hsel)

theorem run_setparEvents (ws : List (Fin 4 × Half16)) {s : State} {rest : List PortEvent}
    (hsel : s.selectable s.func = true) (hport : s.port = ws.map setparEvent ++ rest) :
    core.run ws.length s = .next (ws.foldl afterSetpar { s with port := rest }) := by
  induction ws generalizing s with
  | nil =>
    obtain rfl : s.port = rest := hport
    rfl
  | cons w ws ih =>
    have hrest := ih (afterSetpar_selectable (s := { s with port := ws.map setparEvent ++ rest }) hsel w)
      (State.configure_port _)
    rw [afterSetpar_setPort] at hrest
    exact (run_succ_of_step (M := core) ws.length (step_setparEvent hsel hport)).trans hrest

/-! The vector a sequence ends in. -/

def writeParams (ws : List (Fin 4 × Half16)) (p : Knobs) : Knobs := ws.foldl (fun p w => p.set w.1.val w.2) p

/-- Each register holds the last value written to it. -/
theorem getElem_writeParams (ws : List (Fin 4 × Half16)) (p : Knobs) (k : Fin 4) :
    (writeParams ws p)[k.val] = ((ws.filter fun w => w.1 = k).getLast?.map Prod.snd).getD p[k.val] := by
  induction ws generalizing p with
  | nil => rfl
  | cons w ws ih =>
    rw [writeParams, List.foldl_cons, ← writeParams, ih, List.filter_cons]
    by_cases hwk : w.1 = k
    · subst hwk
      simp only [decide_true, if_true, List.getLast?_cons, Vector.getElem_set_self]
      cases (ws.filter fun w' => w'.1 = w.1).getLast? <;> rfl
    · have hval : w.1.val ≠ k.val := Fin.val_ne_of_ne hwk
      simp only [hwk, decide_false, Bool.false_eq_true, if_false, Vector.getElem_set_ne _ _ hval]

/-- A register no SETPAR names is kept. -/
theorem getElem_writeParams_of_notMem {ws : List (Fin 4 × Half16)} {k : Fin 4} (h : k ∉ ws.map Prod.fst) (p : Knobs) :
    (writeParams ws p)[k.val] = p[k.val] := by
  have hnone : (ws.filter fun w => w.1 = k) = [] := by
    simp only [List.filter_eq_nil_iff, decide_eq_true_eq]
    exact fun w hw hk => h (hk ▸ List.mem_map_of_mem hw)
  rw [getElem_writeParams, hnone]
  rfl

/-! One Configure for a sequence. -/

/-- No trace is left of a Configure with the knobs `p` once there was one with the knobs `q`. -/
abbrev State.Forgets (s : State) (p q : Knobs) : Prop :=
  ({ ({ s with p := p } : State).configure with p := q } : State).configure = ({ s with p := q } : State).configure

/-- The sequence leaves the state of one Configure of its last vector, if of every Configure but the last no trace is
left under that vector. `Good` is what the function asks of a state and of the SETPAR still to come. -/
theorem foldl_afterSetpar {Good : State → List (Fin 4 × Half16) → Prop}
    (hkeep : ∀ s w ws, Good s (w :: ws) → Good (afterSetpar s w) ws)
    (hforget : ∀ (s : State) w ws, Good s (w :: ws) → s.Forgets (s.p.set w.1.val w.2) (writeParams (w :: ws) s.p))
    {ws : List (Fin 4 × Half16)} (hne : ws ≠ []) {s : State} (h : Good s ws) :
    ws.foldl afterSetpar s = ({ s with p := writeParams ws s.p } : State).configure.respond 0 := by
  induction ws generalizing s with
  | nil => exact absurd rfl hne
  | cons w ws ih =>
    rw [List.foldl_cons]
    by_cases hlast : ws = []
    · subst hlast
      rfl
    · rw [ih hlast (hkeep s w ws h), afterSetpar_p, ← hforget s w ws h]
      have honce := congrArg (State.respond · 0)
        (configure_respond { (s.setParam w.1 w.2).configure with p := writeParams (w :: ws) s.p } 0)
      exact honce

theorem exec_cpypar_of_selectable {s : State} (hsel : s.selectable s.func = true) (values : List Half16) :
    exec (.cpypar values) s = .next (({ s with p := copyParams values s.p } : State).configure.respond 0) :=
  dispatched_of_selectable s _ hsel

theorem copyParams_all (p q : Knobs) : copyParams [p[0], p[1], p[2], p[3]] q = p := by
  refine Vector.ext fun k hk => ?_
  obtain rfl | rfl | rfl | rfl : k = 0 ∨ k = 1 ∨ k = 2 ∨ k = 3 := by omega
  all_goals rfl

/-- A sequence that leaves the state of one Configure is one CPYPAR. -/
theorem setparSequence_eq_cpypar {s : State} {ws : List (Fin 4 × Half16)} {rest : List PortEvent}
    (hsel : s.selectable s.func = true) (hport : s.port = ws.map setparEvent ++ rest)
    (hfold : ws.foldl afterSetpar { s with port := rest } =
      ({ s with p := writeParams ws s.p, port := rest } : State).configure.respond 0) :
    ∃ t : State, core.run ws.length s = .next t ∧
      (∀ k : Fin 4, t.p[k.val] = ((ws.filter fun w => w.1 = k).getLast?.map Prod.snd).getD s.p[k.val]) ∧
      exec (.cpypar [t.p[0], t.p[1], t.p[2], t.p[3]]) { s with port := rest } = .next t := by
  refine ⟨_, (run_setparEvents ws hsel hport).trans (congrArg _ hfold), ?_⟩
  simp only [State.respond_p, State.configure_p]
  refine ⟨getElem_writeParams ws s.p, ?_⟩
  rw [exec_cpypar_of_selectable (s := { s with port := rest }) hsel, copyParams_all]

/-- A Configure is erased by a later one if `configureFn` of the active function erases it. -/
theorem configure_forgets {s : State} {f : Fn} (hf : s.func = f) {p q : Knobs}
    (h : configureFn f { configureFn f { s with p := p } with p := q } = configureFn f { s with p := q }) :
    s.Forgets p q := by
  subst hf
  refine (configure_of_func ?_).trans h
  exact State.configure_func { s with p := p }

/-- Configure of RIZM and PAL writes its registers from the knobs alone. -/
theorem configure_forgets_of_rizm_or_pal {s : State} (hf : s.func = .rizm ∨ ∃ v, s.func = .pal v) (p q : Knobs) :
    s.Forgets p q := by
  obtain hf | ⟨v, hf⟩ := hf
  · exact configure_forgets hf
      (congrArg (fun r => ({ s with p := q, rizm := r } : State)) (rizmConfigure_rizmConfigure _ _ s.rizm))
  · exact configure_forgets hf
      (congrArg (fun x => ({ s with p := q, pal := x } : State)) (palConfigure_palConfigure _ _ s.pal))

/-- Settles O26. -/
theorem setparSequenceEqualsCpypar : Obligations.SetparSequenceEqualsCpypar := by
  intro s ws rest hne hport hf
  have hsel : s.selectable s.func = true := by
    obtain hf | ⟨v, hf⟩ := hf <;> rw [hf] <;> rfl
  refine setparSequence_eq_cpypar hsel hport (foldl_afterSetpar
    (Good := fun s _ => s.func = .rizm ∨ ∃ v, s.func = .pal v) ?_ ?_ hne hf)
  · intro s w ws hf
    rwa [afterSetpar_func]
  · intro s w ws hf
    exact configure_forgets_of_rizm_or_pal hf _ _

/-! BM: a Configure is erased by a later one if no knob of the variant moves twice. -/

/-- Each knob of `q` is that of `p` or that of `r`. -/
abbrev KnobsBetween (p q r : Knobs) : Prop := ∀ k : Fin 4, q[k.val] = p[k.val] ∨ q[k.val] = r[k.val]

/-- Each entry of the effective vector reads one knob, or none (R97). -/
theorem effective_between {p q r : Knobs} (h : KnobsBetween p q r) (m : Mode) (row : HalfRow) :
    KnobsBetween (effective m row p) (effective m row q) (effective m row r) := by
  intro k
  have hdefault (d : HalfDefault) :
      HalfDefault.value d q = HalfDefault.value d p ∨ HalfDefault.value d q = HalfDefault.value d r := by
    cases d with
    | fix c => exact .inl rfl
    | mir j => exact h (j.castLE (by decide))
  cases m with
  | full => exact h k
  | half =>
    fin_cases k
    · exact h 0
    · exact h 1
    · exact hdefault row.e2
    · exact hdefault row.e3

/-- Where the knobs are latched, a Configure of BM is erased by a later one that every moved knob moves to. -/
theorem configure_forgets_of_bm {s : State} {v : BmVariant} (hf : s.func = .bm v) (hconf : s.Configured) {p q : Knobs}
    (h : KnobsBetween s.p p q) : s.Forgets p q := by
  obtain ⟨hsnap, -⟩ := bmConfigure_eq_self_iff.mp ((configured_bm_iff hf).mp hconf)
  have hbm := bmConfigure_bmConfigure (v := v) (b := s.bm)
    (e := effective s.mode (HalfTable.bm s.params.half v) q) (e' := effective s.mode (HalfTable.bm s.params.half v) p)
    fun k hk => hsnap k hk ▸ effective_between h s.mode (HalfTable.bm s.params.half v) k
  exact configure_forgets hf (congrArg (fun b => ({ s with p := q, bm := b } : State)) hbm)

/-- Settles O54. -/
theorem bmSetparSequenceEqualsCpypar : Obligations.BmSetparSequenceEqualsCpypar := by
  intro s v ws rest hf hconf hne hnodup hport
  have hsel : s.selectable s.func = true := by
    rw [hf]
    rfl
  refine setparSequence_eq_cpypar hsel hport (foldl_afterSetpar
    (Good := fun s ws => s.func = .bm v ∧ s.Configured ∧ (ws.map Prod.fst).Nodup) ?_ ?_ hne
    ⟨hf, hconf.setPorts rest s.rsp, hnodup⟩)
  · rintro s w ws ⟨hf, -, hnodup⟩
    exact ⟨(afterSetpar_func s w).trans hf, (configured_configure _).respond 0, hnodup.of_cons⟩
  · rintro s w ws ⟨hf, hconf, hnodup⟩
    refine configure_forgets_of_bm hf hconf fun k => ?_
    by_cases hk : w.1 = k
    · subst hk
      have hfresh : w.1 ∉ ws.map Prod.fst := (List.nodup_cons.mp hnodup).1
      exact .inr (getElem_writeParams_of_notMem hfresh _).symm
    · exact .inl (Vector.getElem_set_ne _ _ (Fin.val_ne_of_ne hk))

end Sys2Proof.Machine

/-! The conditions of R266 (d) on a BM function, by two runs from reset: in each a frame comes up between the two
movements of a knob, or between the movements of two knobs. -/

namespace Sys2Proof.Machine

/-- What every command keeps holds after some commands. -/
theorem after_keeps {Q : State → Prop} (hexec : ∀ i s, Q s → ∀ t, exec i s = .next t → Q t) (is : List Instr)
    {s : State} (h : Q s) : Q (after is s) := by
  refine List.foldlRecOn (motive := Q) is _ h fun u hu i _ => ?_
  cases hnext : exec i u with
  | next t => exact hexec i u hu t hnext
  | fault r => exact hu
  | refused r => exact hu

/-- States reached by commands from reset meet both invariants. -/
theorem after_reset_inv (is : List Instr) : (after is State.reset).Inv ∧ (after is State.reset).Configured :=
  ⟨after_keeps (fun i _ => exec_keepsInv i) is resetStateMeetsInvariant,
    after_keeps (fun i _ => exec_keepsConfigured i) is resetStateIsConfigured⟩

/-- `BM_A` with knob 0 latched at 0x9000 in frame 0, and then frame 1 selected. -/
def latchedInFrameZero : State := after [.setfn (.bm .a), .setpar 0 0x9000, .proc 0x0C] State.reset

/-- Settles O55. A knob moved away and back latches the frame that is up, where a CPYPAR sees no knob moved; and a PROC
that selects frame 1 between two SETPAR has them latch in different frames, where a CPYPAR latches both in one. -/
theorem bmSetparConditionsAreNeeded : Obligations.BmSetparConditionsAreNeeded := by
  refine ⟨⟨latchedInFrameZero, .a, 0, 0xA000, 0x9000, _, _, _, (after_reset_inv _).1, (after_reset_inv _).2, rfl, rfl,
    rfl, rfl, ?twice⟩, after [.setfn (.bm .a)] State.reset, .a, 0, 1, 0xA000, 0xB000, 0x0C, _, _, _, _, _, _, _,
    (after_reset_inv _).1, (after_reset_inv _).2, rfl, by decide, rfl, rfl, rfl, rfl, rfl, rfl, rfl, ?before, ?after⟩
  all_goals decide

end Sys2Proof.Machine

/-! Collaborators in PROC and BUF: the unbuffered path, the two queues of the buffered one, and its latency of one block
(44_processor_engine.md rules R246 to R254). -/

namespace Sys2Proof.Machine

/-- Settles O35. -/
theorem procUnbufferedCollaborator : Obligations.ProcUnbufferedCollaborator := fun _ c _ _ hf he =>
  ⟨_, execProc_unbuffered c hf he, rfl, getElem_updateExt_of_some he _⟩

/-! The queues (R248, R252). -/

/-- The control byte goes in at the end of `INQ`, the sample comes from the front of `OUTQ` (R248). -/
theorem procBuffered_eq {s : State} (c : Byte) (hin : s.inq.length ≤ s.params.rbCap) :
    procBuffered c s = { s with
      inq := (if s.inq.length = s.params.rbCap then s.inq.drop 1 else s.inq) ++ [c]
      outq := s.outq.drop 1
      rsp := some ⟨s.outq.getD 0 0, false⟩ } := by
  have hqueue : overwrite s.params.rbCap s.inq c =
      (if s.inq.length = s.params.rbCap then s.inq.drop 1 else s.inq) ++ [c] := by
    split
    next hfull => exact overwrite_of_le _ _ _ hfull.ge
    next hroom => exact overwrite_of_lt _ _ _ (hin.lt_of_ne hroom)
  have hread : immediateRead 0 s.outq = (s.outq.getD 0 0, s.outq.drop 1) := by cases s.outq <;> rfl
  simp only [procBuffered, State.respond, hqueue, hread]

/-- Settles O36. -/
theorem procBufferedQueues : Obligations.ProcBufferedQueues := fun _ c _ _ hf he hin =>
  (execProc_buffered c hf he).trans (congrArg _ (procBuffered_eq c hin))

/-- One block, where `OUTQ` has room for it (R252). -/
theorem fillBlock_eq {s : State} (k : Fin 8) (e : ExtInst) (hroom : s.outq.length + s.params.kBlock ≤ s.params.rbCap) :
    fillBlock k e s = { s with
      inq := s.inq.drop s.params.kBlock
      outq := s.outq ++
        extFill s.params.kBlock k e.st ((s.inq ++ List.replicate s.params.kBlock 0).take s.params.kBlock)
      exts := updateExt s.exts k fun st =>
        Config.extFillState k st ((s.inq ++ List.replicate s.params.kBlock 0).take s.params.kBlock) } := by
  rw [fillBlock, readBlock_eq, writeBlock_of_fits _ _ _ (by rwa [length_extFill])]

theorem execBuf_of_room {s : State} {k : Fin 8} {st : Nat} (hf : s.func = .ext k)
    (he : s.exts[k.val] = some ⟨.buffered, st⟩) (hroom : s.outq.length + s.params.kBlock ≤ s.params.rbCap) :
    execBuf s = .next ((fillBlock k ⟨.buffered, st⟩ s).respond 1) := by
  have hwritable : s.params.kBlock ≤ writable s.params.rbCap s.outq := Nat.le_sub_of_add_le' hroom
  rw [execBuf_buffered hf he, if_pos hwritable]

theorem execBuf_of_no_room {s : State} {k : Fin 8} {st : Nat} (hf : s.func = .ext k)
    (he : s.exts[k.val] = some ⟨.buffered, st⟩) (hfull : s.params.rbCap < s.outq.length + s.params.kBlock)
    (hout : s.outq.length ≤ s.params.rbCap) : execBuf s = .next (s.respond 0) := by
  have hroom : ¬ s.params.kBlock ≤ writable s.params.rbCap s.outq := by
    unfold writable
    omega
  rw [execBuf_buffered hf he, if_neg hroom]

/-- Settles O44. -/
theorem bufFillsOneBlock : Obligations.BufFillsOneBlock := by
  refine ⟨fun s k st hf he hout => ⟨fun hroom => ?room, fun hfull => ?full⟩, fun s hf => ?none⟩
  case room =>
    have hbuf := execBuf_of_room hf he hroom
    rw [fillBlock_eq k _ hroom] at hbuf
    exact ⟨_, hbuf, rfl, getElem_updateExt_of_some he _⟩
  case full => exact execBuf_of_no_room hf he hfull hout
  case none =>
    obtain hscope | ⟨k, st, hf, he⟩ := hf
    · exact execBuf_inScope hscope
    · exact execBuf_unbuffered hf he

/-! The steady cadence (R254). -/

/-- The state after a PROC whose byte `INQ` has room for, with `rest` left on the port. -/
def State.afterQueuedProc (s : State) (c : Byte) (rest : List PortEvent) : State :=
  { s with inq := s.inq ++ [c], outq := s.outq.drop 1, port := rest, rsp := some ⟨s.outq.getD 0 0, false⟩ }

theorem step_procEvent_buffered {s : State} {k : Fin 8} {st : Nat} {c : Byte} {rest : List PortEvent}
    (hf : s.func = .ext k) (he : s.exts[k.val] = some ⟨.buffered, st⟩) (hin : s.inq.length < s.params.rbCap)
    (hport : s.port = procEvent c :: rest) : step s = .next (s.afterQueuedProc c rest) := by
  have hproc := procBufferedQueues { s with port := rest } c k st hf he hin.le
  rw [if_neg hin.ne] at hproc
  exact (step_procEvent hport).trans hproc

theorem responses_succ_of_step {s t : State} (n : Nat) (h : step s = .next t) :
    s.responses (n + 1) = t.rsp :: t.responses n := by
  rw [State.responses, h]

/-- PROC commands with room in `INQ` for all their control bytes: the bytes are queued in order, each command answers
the next sample of `OUTQ`, and the run goes on from there. -/
theorem run_procEvents_buffered (cs : List Byte) {s : State} {k : Fin 8} {st : Nat} {rest : List PortEvent}
    (hf : s.func = .ext k) (he : s.exts[k.val] = some ⟨.buffered, st⟩)
    (hin : s.inq.length + cs.length ≤ s.params.rbCap) (hport : s.port = cs.map procEvent ++ rest) :
    ∃ t : State,
      (∃ rsp, t = { s with inq := s.inq ++ cs, outq := s.outq.drop cs.length, port := rest, rsp := rsp }) ∧
      ∀ m, core.run (cs.length + m) s = core.run m t ∧
        s.responses (cs.length + m) =
          (List.range cs.length).map (fun n => some ⟨s.outq.getD n 0, false⟩) ++ t.responses m := by
  induction cs generalizing s with
  | nil =>
    obtain rfl : s.port = rest := hport
    refine ⟨s, ⟨s.rsp, by rw [List.append_nil]; rfl⟩, fun m => ?_⟩
    rw [List.length_nil, Nat.zero_add]
    exact ⟨rfl, rfl⟩
  | cons c cs ih =>
    rw [List.length_cons] at hin
    have hroom : s.inq.length < s.params.rbCap := by omega
    have hstep := step_procEvent_buffered (rest := cs.map procEvent ++ rest) hf he hroom hport
    have hin' : (s.inq ++ [c]).length + cs.length ≤ s.params.rbCap := by
      rw [List.length_append, List.length_singleton]
      omega
    have hsample (n : Nat) : (s.outq.drop 1).getD n 0 = s.outq.getD (n + 1) 0 := by
      simp only [List.getD_eq_getElem?_getD, List.getElem?_drop, Nat.add_comm 1]
    obtain ⟨t, ⟨rsp, ht⟩, hrest⟩ := ih (s := s.afterQueuedProc c (cs.map procEvent ++ rest)) hf he hin' rfl
    refine ⟨t, ⟨rsp, ht.trans ?state⟩, fun m => ?_⟩
    case state =>
      simp only [State.afterQueuedProc, List.append_assoc, List.singleton_append, List.drop_drop, Nat.add_comm 1,
        List.length_cons]
    obtain ⟨hrun, hresponses⟩ := hrest m
    rw [List.length_cons, Nat.add_right_comm]
    refine ⟨(run_succ_of_step (M := core) _ hstep).trans hrun, ?_⟩
    rw [responses_succ_of_step _ hstep, hresponses, List.range_succ_eq_map, List.map_cons, List.map_map]
    simp only [State.afterQueuedProc, hsample, List.cons_append, Function.comp_def, Nat.succ_eq_add_one]

/-- BUF with exactly one block of control bytes queued and `OUTQ` empty. -/
theorem exec_buf_exact_block {s : State} {k : Fin 8} {st : Nat} (hf : s.func = .ext k)
    (he : s.exts[k.val] = some ⟨.buffered, st⟩) (hin : s.inq.length = s.params.kBlock) (hout : s.outq = [])
    (hcap : s.params.kBlock ≤ s.params.rbCap) :
    exec .buf s = .next { s with
      inq := []
      outq := extFill s.params.kBlock k st s.inq
      exts := updateExt s.exts k fun st => Config.extFillState k st s.inq
      rsp := some ⟨1, false⟩ } := by
  have hroom : s.outq.length + s.params.kBlock ≤ s.params.rbCap := by rwa [hout, List.length_nil, Nat.zero_add]
  have hbuf := execBuf_of_room hf he hroom
  rw [fillBlock_eq k _ hroom, List.take_left' hin, List.drop_of_length_le hin.le, hout, List.nil_append] at hbuf
  exact hbuf

theorem step_buf {s : State} {rest : List PortEvent} (hport : s.port = .word 0x70000000 :: rest) :
    step s = exec .buf { s with port := rest } := by
  have hwords : encode .buf = [0x70000000] := by decide
  exact step_of_encode rfl (by rwa [hwords])

/-- Settles O45: the PROC commands queue their bytes and empty `OUTQ`, and BUF then has room for the block that it
computes from these bytes. -/
theorem bufferedPathDelaysOneBlock : Obligations.BufferedPathDelaysOneBlock := by
  intro s k st cs rest hwf hf he hlen hin hout hport
  obtain ⟨-, -, -, -, -, hcap, -⟩ := hwf
  have hroom : s.inq.length + cs.length ≤ s.params.rbCap := by rwa [hin, hlen, List.length_nil, Nat.zero_add]
  obtain ⟨t, ⟨rsp, rfl⟩, hrest⟩ := run_procEvents_buffered cs hf he hroom hport
  obtain ⟨hrun, hresponses⟩ := hrest 1
  rw [hin, List.nil_append, List.drop_of_length_le (hout.trans hlen.ge)] at hrun hresponses
  have hbuf := (step_buf (s := { s with inq := cs, outq := [], port := _, rsp := rsp }) rfl).trans
    (exec_buf_exact_block (s := { s with inq := cs, outq := [], port := rest, rsp := rsp }) hf he hlen rfl hcap)
  rw [← hlen]
  refine ⟨hresponses.trans ?_, _, hrun.trans (run_succ_of_step (M := core) 0 hbuf), rfl, ?_, ?_, rfl⟩
  · rw [responses_succ_of_step 0 hbuf]
    rfl
  · rw [hlen]
  · exact (getElem_updateExt_of_some he _ k).trans (if_pos rfl)

end Sys2Proof.Machine

/-! No command fails once it is decoded: a `FUNC` whose operations exist leads to a next state with such a `FUNC`
(60_exceptions.md rules R280, R285 and R286). -/

namespace Sys2Proof.Machine

/-! Which functions can be selected (R286). -/

theorem selectable_of_absent {s : State} {k : Fin 8} (he : s.exts[k.val] = none) : s.selectable (.ext k) = false := by
  rw [State.selectable, he, Option.isSome_none]

/-- An active collaborator whose operations exist is in its slot. -/
theorem exists_slot_of_selectable {s : State} {k : Fin 8} (hf : s.func = .ext k)
    (hsel : s.selectable s.func = true) : ∃ e, s.exts[k.val] = some e := by
  rw [hf] at hsel
  exact Option.isSome_iff_exists.mp hsel

theorem selectable_updateExt (s : State) (k : Fin 8) (g : Nat → Nat) (f : Fn) :
    ({ s with exts := updateExt s.exts k g } : State).selectable f = s.selectable f :=
  selectable_congr (sameSlots_updateExt s k g) f

/-! Commands. -/

/-- The outcome is a next state whose `FUNC` names a function whose operations exist. -/
abbrev GoesOn (o : Host.Outcome State Fault Refusal) : Prop := ∃ t, o = .next t ∧ t.selectable t.func = true

theorem goesOn_next {t : State} (h : t.selectable t.func = true) : GoesOn (.next t) := ⟨t, rfl, h⟩

/-- A command that dispatches on a function whose operations exist ends in a Configure of that function. -/
theorem goesOn_dispatched_configure {s u : State} (hs : s.selectable s.func = true)
    (hu : u.selectable u.func = true) : GoesOn (s.dispatched (u.configure.respond 0)) := by
  refine ⟨_, dispatched_of_selectable s _ hs, ?_⟩
  rw [State.respond_func, State.configure_func]
  exact (selectable_configure u u.func).trans hu

theorem initAll_selectable (index : Byte) (s : State) :
    (s.initAll index).selectable (s.initAll index).func = true := by
  rw [initAll_eq]
  rfl

/-- SETFN of a function whose operations exist leaves it active, and its operations still exist (R238). -/
theorem execSetfn_selects {s : State} {f : Fn} (hsel : s.selectable f = true) :
    ∃ t, execSetfn f s = .next t ∧ t.func = f ∧ t.selectable f = true := by
  refine ⟨_, execSetfn_eq hsel, ?func, ?selectable⟩
  case func => rw [State.configure_func, initFn_func]
  case selectable =>
    rw [selectable_configure, selectable_initFn]
    exact hsel

/-- SETFN of an absent slot is refused as a word, and changes no state (R91 step 4, R285). -/
theorem execSetfn_of_not_selectable {s : State} {f : Fn} (hsel : s.selectable f = false) :
    execSetfn f s = .next s.refuseWord := by
  rw [execSetfn, hsel]
  rfl

theorem execSetfn_goesOn (f : Fn) {s : State} (h : s.selectable s.func = true) : GoesOn (execSetfn f s) := by
  cases hsel : s.selectable f with
  | true =>
    obtain ⟨t, hnext, hfunc, ht⟩ := execSetfn_selects hsel
    exact ⟨t, hnext, hfunc ▸ ht⟩
  | false =>
    rw [execSetfn_of_not_selectable hsel]
    exact goesOn_next h

theorem execProc_goesOn (c : Byte) {s : State} (h : s.selectable s.func = true) : GoesOn (execProc c s) := by
  cases hf : s.func with
  | rizm =>
    rw [execProc_rizm c hf]
    exact goesOn_next h
  | pal v =>
    rw [execProc_pal c hf]
    exact goesOn_next h
  | bm v =>
    rw [execProc_bm c hf]
    exact goesOn_next h
  | ext k =>
    obtain ⟨⟨style, st⟩, he⟩ := exists_slot_of_selectable hf h
    cases style with
    | unbuffered =>
      rw [execProc_unbuffered c hf he]
      exact goesOn_next ((selectable_updateExt s k _ s.func).trans h)
    | buffered =>
      rw [execProc_buffered c hf he]
      exact goesOn_next h

theorem execBuf_goesOn {s : State} (h : s.selectable s.func = true) : GoesOn (execBuf s) := by
  by_cases hscope : ∀ k, s.func ≠ .ext k
  · rw [execBuf_inScope hscope]
    exact goesOn_next h
  · push Not at hscope
    obtain ⟨k, hf⟩ := hscope
    obtain ⟨⟨style, st⟩, he⟩ := exists_slot_of_selectable hf h
    cases style with
    | unbuffered =>
      rw [execBuf_unbuffered hf he]
      exact goesOn_next h
    | buffered =>
      rw [execBuf_buffered hf he]
      split
      next => exact goesOn_next ((selectable_updateExt s k _ s.func).trans h)
      next => exact goesOn_next h

theorem execLedf_goesOn {s : State} (h : s.selectable s.func = true) : GoesOn (execLedf s) := by
  unfold execLedf
  split <;> exact goesOn_next h

theorem execLedn_goesOn {s : State} (h : s.selectable s.func = true) : GoesOn (execLedn s) := by
  unfold execLedn
  split <;> exact goesOn_next h

theorem exec_goesOn (i : Instr) {s : State} (h : s.selectable s.func = true) : GoesOn (exec i s) := by
  cases i with
  | init index => exact goesOn_next (initAll_selectable index s)
  | setfn f => exact execSetfn_goesOn f h
  | setmode m => exact goesOn_dispatched_configure (u := { s with mode := m }) h h
  | setpar idx value => exact goesOn_dispatched_configure (u := s.setParam idx value) h h
  | cpypar values => exact goesOn_dispatched_configure (u := { s with p := copyParams values s.p }) h h
  | proc c => exact execProc_goesOn c h
  | buf => exact execBuf_goesOn h
  | cfg => exact goesOn_dispatched_configure h h
  | qnt raw => exact goesOn_next h
  | ledf => exact execLedf_goesOn h
  | ledn => exact execLedn_goesOn h

/-- Settles O10: an idle step and a refused word leave `FUNC` and the slots alone, a reset leaves RIZM active, and no
command removes the operations of the function it leaves active. -/
theorem selectableStatesNeverStop : Obligations.SelectableStatesNeverStop := by
  refine ⟨fun s ⟨⟨_, hsel, _⟩, _⟩ => hsel, fun s h => ?step⟩
  change GoesOn (step s)
  cases hfetch : fetch s.port with
  | idle =>
    rw [step_of_fetch_idle hfetch]
    exact goesOn_next h
  | reset rest =>
    rw [step_of_fetch_reset hfetch]
    exact goesOn_next (initAll_selectable 0 s)
  | refused r rest =>
    rw [step_of_fetch_refused hfetch]
    exact goesOn_next h
  | command i rest =>
    rw [step_of_fetch_command hfetch]
    exact exec_goesOn i h

/-! A `FUNC` that names an absent slot (R286; 93_implementation_defined.md I6). -/

theorem dispatched_of_absent {s : State} {k : Fin 8} (hf : s.func = .ext k) (he : s.exts[k.val] = none) (t : State) :
    s.dispatched t = .refused .corruptFunction := by
  rw [State.dispatched, hf, selectable_of_absent he]
  rfl

/-- Settles O51: every command that dispatches on `FUNC` finds the slot absent; the others do not look at the slot. -/
theorem corruptFunctionIsRefused : Obligations.CorruptFunctionIsRefused := by
  intro s k i hf he
  have hbm (v : BmVariant) : s.func ≠ .bm v := by simp [hf]
  refine ⟨?dispatching, ?init, ?setfn, ?qnt, ?led⟩
  case dispatching =>
    rintro (rfl | rfl | ⟨m, rfl⟩ | ⟨j, x, rfl⟩ | ⟨xs, rfl⟩ | ⟨c, rfl⟩)
    · exact dispatched_of_absent hf he _
    · exact execBuf_absent hf he
    · exact dispatched_of_absent hf he _
    · exact dispatched_of_absent hf he _
    · exact dispatched_of_absent hf he _
    · exact execProc_absent c hf he
  case init =>
    rintro c rfl
    exact ⟨_, rfl, rfl⟩
  case setfn =>
    rintro f rfl hsel
    exact execSetfn_selects hsel
  case qnt =>
    rintro raw rfl
    rfl
  case led =>
    rintro (rfl | rfl)
    · exact exec_ledf_of_ne hbm
    · exact exec_ledn_of_ne hbm

end Sys2Proof.Machine

/-! Words that are no command, and words that are not yet a command (30_encoding.md rules R88 and R91; 60_exceptions.md
rules R285 and R296). -/

namespace Sys2Proof.Machine

/-! Classifying a word by the mask and pattern of a row (R83). -/

/-- A word that selects no row of the opcode map is refused for one reason or another (R91 steps 1 and 2). -/
theorem classify_of_no_row {w : Word} (h : ∀ r ∈ rows, w &&& r.mask ≠ r.pattern) : ∃ e, classify w = .error e := by
  have hnone : findRow w = none := by
    rw [findRow, List.find?_eq_none.mpr fun r hr => by simpa using h r hr, Option.map_none]
  cases hclass : classify w with
  | error e => exact ⟨e, rfl⟩
  | ok o =>
    obtain ⟨-, hrow, -⟩ := classify_ok hclass
    rw [hnone] at hrow
    cases hrow

/-- The word that selects the CPYPAR row is the header of its size, whatever the size (R88). -/
theorem eq_header_of_selects {w : Word} (h : w &&& 0xFFF8FFFF = 0x50000000) :
    w = mkWord 0x5 (BitVec.ofNat 8 (copySize w)) 0 := by
  have hz : wordZ w = 0 := eq_zero_of_and_allOnes (BitVec.extractLsb'_and.symm.trans (congrArg wordZ h))
  obtain ⟨o, a, imm, rfl⟩ : ∃ o a imm, w = mkWord o a imm := ⟨_, _, _, eq_mkWord_of_wordZ hz⟩
  have hfields : mkWord o (a &&& 0xF8) (imm &&& 0xFFFF) = mkWord 0x5 0 0 :=
    (mkWord_and o a 0xF8 imm 0xFFFF).symm.trans h
  obtain ⟨rfl, ha, himm⟩ := mkWord_inj.mp hfields
  obtain rfl := eq_zero_of_and_allOnes himm
  rw [size_operand 0 ha]

/-- A header whose size is not one of a command is refused (R91 step 3). -/
theorem classify_oversized {n : Nat} (hmin : 4 < n) (hmax : n < 8) :
    classify (mkWord 0x5 (BitVec.ofNat 8 n) 0) = .error .sizeAboveFour := by
  interval_cases n <;> decide

theorem classify_of_selects_oversized {w : Word} (h : w &&& 0xFFF8FFFF = 0x50000000) (hsize : 4 < copySize w) :
    classify w = .error .sizeAboveFour := by
  rw [eq_header_of_selects h]
  exact classify_oversized hsize (w.extractLsb' 16 3).isLt

theorem classify_of_selects_cpypar {w : Word} (h : w &&& 0xFFF8FFFF = 0x50000000) (hsize : copySize w ≤ 4) :
    classify w = .ok .cpypar := by
  rw [eq_header_of_selects h]
  exact classify_cpypar (copySize w) hsize

/-! Refused words on the port (R285). -/

/-- Words that are no command are taken off the port as a whole, and refused. -/
theorem step_of_decode_error {s : State} {w : Word} {ds : List Word} {rest : List PortEvent} {e : Reject}
    (hport : s.port = .word w :: (ds.map .word ++ rest)) (hlen : ds.length = dataCount w)
    (herror : decodeCommand w ds = .error e) : step s = .next { s with port := rest, rsp := some ⟨0, true⟩ } := by
  have htake : takeWords (dataCount w) (ds.map .word ++ rest) = .got ds rest := hlen ▸ takeWords_append ds rest
  have hfetch : fetch s.port = .refused e rest := by simp only [hport, fetch, htake, herror]
  exact step_of_fetch_refused hfetch

/-- A first word that is refused by itself is one word long (R91). -/
theorem step_of_classify_error {s : State} {w : Word} {rest : List PortEvent} {e : Reject}
    (hport : s.port = .word w :: rest) (herror : classify w = .error e) :
    step s = .next { s with port := rest, rsp := some ⟨0, true⟩ } := by
  have hlen : dataCount w = 0 := by simp only [dataCount, herror]
  have hcommand : decodeCommand w [] = .error e := by simp only [decodeCommand, herror]
  exact step_of_decode_error (ds := []) hport hlen.symm hcommand

theorem encode_setfn_ext (k : Fin 8) : encode (.setfn (.ext k)) = [mkWord 0x2 (BitVec.ofNat 8 (8 + k.val)) 0] := by
  revert k
  decide

/-- Settles O5: the decoder refuses the words of the first two clauses, and SETFN refuses the slot of the third. -/
theorem refusedWordsChangeNothing : Obligations.RefusedWordsChangeNothing := by
  refine ⟨fun s w rest hport hw => ?oneWord, fun s w ds rest hport hw hlen hsize hdata => ?data,
    fun s k rest hport he => ?slot⟩
  case oneWord =>
    obtain hrows | ⟨hw, hsize⟩ := hw
    · obtain ⟨e, herror⟩ := classify_of_no_row hrows
      exact step_of_classify_error hport herror
    · exact step_of_classify_error hport (classify_of_selects_oversized hw hsize)
  case data =>
    have hclass : classify w = .ok .cpypar := classify_of_selects_cpypar hw (hlen.symm.trans_le hsize)
    have herror : decodeCommand w ds = .error .dataUpperHalf := by
      rw [decodeCommand_cpypar ds hclass, if_neg (by simpa using hdata)]
    exact step_of_decode_error hport (hlen.trans (dataCount_cpypar hclass).symm) herror
  case slot =>
    have hstep : step s = execSetfn (.ext k) { s with port := rest } :=
      step_of_encode (i := .setfn (.ext k)) rfl (by rw [hport, encode_setfn_ext]; rfl)
    exact hstep.trans (execSetfn_of_not_selectable (selectable_of_absent he))

/-! Words that are not yet a command (R88, R296). -/

theorem dataCount_header {n : Nat} (h : n ≤ 4) : dataCount (mkWord 0x5 (BitVec.ofNat 8 n) 0) = n :=
  (dataCount_cpypar (classify_cpypar n h)).trans (copySize_mkWord n h)

/-- The block waits for the data words that are still to come (R88). -/
theorem fetch_of_incomplete_cpypar {n : Nat} {ds : List Word} (hn : n ≤ 4) (hlen : ds.length < n) :
    fetch (.word (mkWord 0x5 (BitVec.ofNat 8 n) 0) :: ds.map .word) = .idle := by
  simp only [fetch, dataCount_header hn, takeWords_starved n ds hlen]

/-- Settles O7. -/
theorem idlePortHoldsState : Obligations.IdlePortHoldsState := by
  refine fun s hport => step_of_fetch_idle ?_
  obtain hport | ⟨n, ds, hn, hlen, hport⟩ := hport
  · rw [hport, fetch]
  · rw [hport]
    exact fetch_of_incomplete_cpypar hn hlen

end Sys2Proof.Machine

/-! The reset input, at a command boundary and among the data words of an incomplete CPYPAR (70_reset_and_hazards.md
rule R300). -/

namespace Sys2Proof.Machine

/-- A reset input among the data words of a CPYPAR is met before the command is whole, and takes the words before it
along (R300, log entry 1). -/
theorem fetch_of_interrupted_cpypar {n : Nat} {ds : List Word} (hn : n ≤ 4) (hlen : ds.length < n)
    (rest : List PortEvent) :
    fetch (.word (mkWord 0x5 (BitVec.ofNat 8 n) 0) :: (ds.map .word ++ .rst :: rest)) = .reset rest := by
  simp only [fetch, dataCount_header hn, takeWords_reset n ds rest hlen]

/-- The reset input leaves the state of `INIT 0`, but for the port and the response (R300). -/
theorem step_of_fetch_reset_eq_init {s : State} {rest : List PortEvent} (hfetch : fetch s.port = .reset rest) :
    step s = .next { (s.initAll 0).respond 0 with port := rest, rsp := none } :=
  step_of_fetch_reset hfetch

/-- Settles O6: wherever it is sampled the reset input is fetched as such, and `INIT 0` leaves the reset state. -/
theorem resetInputActsAsInitZero : Obligations.ResetInputActsAsInitZero := by
  intro s before rest hport hbefore
  have hfetch : fetch s.port = .reset rest := by
    rw [hport]
    obtain rfl | ⟨n, ds, hn, hlen, rfl⟩ := hbefore
    · rfl
    · exact fetch_of_interrupted_cpypar hn hlen rest
  refine ⟨(s.initAll 0).respond 0, rest, rfl, step_of_fetch_reset_eq_init hfetch, fun _ => rfl, ?reset,
    fun k => ?slot⟩
  case reset =>
    rw [initAll_eq]
    rfl
  case slot =>
    rw [State.respond_exts, initAll_eq]
    exact getElem_initExts 0 s.exts k

/-- Settles O52: both ports are fetched as the reset input, and what is left of them is the same. -/
theorem resetInputDropsPartialCpypar : Obligations.ResetInputDropsPartialCpypar := by
  intro s n ds rest hn hlen hport
  have hfetch : fetch s.port = .reset rest := by rw [hport, fetch_of_interrupted_cpypar hn hlen]
  exact ⟨_, step_of_fetch_reset hfetch, step_of_fetch_reset (s := { s with port := .rst :: rest }) rfl, rfl⟩

end Sys2Proof.Machine

/-! The order of SETFN, SETMODE and CPYPAR at the start: until the first PROC, the last Configure of an in-scope
function decides its registers (70_reset_and_hazards.md rule R303; 43_chromatic_sequencer.md rule R199). -/

namespace Sys2Proof.Machine

/-! BM: where the step that a knob drives holds the position in its snapshot, the next position replaces both. -/

/-- The step of the current frame at knob slot `k` holds the position in the snapshot of that slot, or is outside the
array. -/
def Bm.Holds (b : Bm) (k : Fin 4) : Prop :=
  writeStep b.val (b.frame.toNat * 4 + k.val) (bipolar b.snap[k.val]) = b.val

/-- After init every step is 0 and every snapshot is mid-scale, the position that 0 stands for (R196, R199). -/
theorem Bm.reset_holds (p : Params) (k : Fin 4) : (Bm.reset p).Holds k := by
  have hmid : bipolar (Bm.reset p).snap[k.val] = 0 :=
    (congrArg bipolar (Vector.getElem_replicate _)).trans bipolar_mid
  rw [Bm.Holds, hmid]
  exact List.set_replicate_self

/-- Recording one knob writes the step and the snapshot of no other (R200). -/
theorem Bm.Holds.bmLatch {b : Bm} {k : Fin 4} (h : b.Holds k) (v : BmVariant) (e : Knobs) {j : Fin 4} (hjk : j ≠ k) :
    (bmLatch v e b j).Holds k := by
  have hslot : j.val ≠ k.val := Fin.val_ne_of_ne hjk
  have hplace : b.frame.toNat * 4 + j.val ≠ b.frame.toNat * 4 + k.val := by omega
  have hother (x : Half16) :
      writeStep (writeStep b.val (b.frame.toNat * 4 + j.val) x) (b.frame.toNat * 4 + k.val) (bipolar b.snap[k.val]) =
        writeStep b.val (b.frame.toNat * 4 + j.val) x :=
    (List.set_comm _ _ hplace).trans (congrArg (writeStep · _ x) h)
  simp only [bmLatch_fields, bmLatchVal, Bm.Holds, Vector.getElem_set_ne _ _ hslot]
  split
  · exact hother _
  · exact h

/-- Of two positions of one knob only the second leaves a trace, though each writes only if it differs from the one
before: where the second is the one that the step held at first, writing it again restores the step. -/
theorem bmLatch_bmLatch_of_holds {v : BmVariant} {e e' : Knobs} {b : Bm} {k : Fin 4} (h : b.Holds k) :
    bmLatch v e (bmLatch v e' b k) k = bmLatch v e b k := by
  by_cases hsame : e'[k.val] = b.snap[k.val] ∨ e'[k.val] = e[k.val]
  · exact bmLatch_bmLatch_same hsame
  · obtain ⟨hmoved, hagain⟩ := not_or.mp hsame
    simp only [bmLatch_fields, bmLatchVal, Vector.getElem_set_self, Vector.set_set, ne_eq, hmoved, Ne.symm hagain,
      not_false_eq_true, true_and]
    congr 1
    by_cases hin : b.frame.toNat * 4 + k.val < bmCap v
    · by_cases hback : e[k.val] = b.snap[k.val]
      · simp only [hin, hback, if_true, not_true_eq_false, false_and, if_false]
        exact (List.set_set _).trans h
      · simp only [hin, hback, if_true, not_false_eq_true, and_self]
        exact List.set_set _
    · simp only [hin, and_false, if_false]

theorem foldl_bmLatch_foldl_bmLatch_of_holds {v : BmVariant} {e e' : Knobs} {l : List (Fin 4)} (hl : l.Nodup) {b : Bm}
    (h : ∀ k ∈ l, b.Holds k) : l.foldl (bmLatch v e) (l.foldl (bmLatch v e') b) = l.foldl (bmLatch v e) b := by
  induction l generalizing b with
  | nil => rfl
  | cons k l ih =>
    obtain ⟨hkl, hl⟩ := List.nodup_cons.mp hl
    have hrest : ∀ j ∈ l, (bmLatch v e b k).Holds j := fun j hj =>
      (h j (List.mem_cons_of_mem k hj)).bmLatch v e fun hkj => hkl (hkj ▸ hj)
    rw [List.foldl_cons, List.foldl_cons, List.foldl_cons, foldl_bmLatch_comm v e e' hkl,
      bmLatch_bmLatch_of_holds (h k List.mem_cons_self), ih hl hrest]

/-- After init a first Configure leaves no trace of its knobs in BM once there was a second (R199, R303). -/
theorem bmConfigure_bmConfigure_reset (v : BmVariant) (e e' : Knobs) (p : Params) :
    bmConfigure v e (bmConfigure v e' (Bm.reset p)) = bmConfigure v e (Bm.reset p) := by
  simp only [bmConfigure, foldl_bmLatch_count,
    foldl_bmLatch_foldl_bmLatch_of_holds (bmSlots_nodup v) fun k _ => Bm.reset_holds p k]

/-! The state of a SETFN, by the knobs and the mode it finds. -/

/-- The state in which `SETFN f` completes from `s` with the knobs at `p` and the mode `m` (R238). -/
def State.selected (s : State) (f : Fn) (p : Knobs) (m : Mode) : State :=
  (initFn f { s with p := p, mode := m, func := f, inq := [], outq := [], rsp := some ⟨0, false⟩ }).configure

theorem exec_setfn_eq_selected {s : State} {f : Fn} (hsel : s.selectable f = true) :
    exec (.setfn f) s = .next (s.selected f s.p s.mode) :=
  execSetfn_eq hsel

@[simp] theorem State.selected_p (s : State) (f : Fn) (p : Knobs) (m : Mode) : (s.selected f p m).p = p := by
  rw [State.selected, State.configure_p, initFn_p]

@[simp] theorem State.selected_func (s : State) (f : Fn) (p : Knobs) (m : Mode) : (s.selected f p m).func = f := by
  rw [State.selected, State.configure_func, initFn_func]

@[simp] theorem State.selected_mode (s : State) (f : Fn) (p : Knobs) (m : Mode) : (s.selected f p m).mode = m := by
  rw [State.selected, State.configure_mode, initFn_mode]

theorem State.respond_eq_self {s : State} {v : Half16} (h : s.rsp = some ⟨v, false⟩) : s.respond v = s := by
  rw [State.respond, ← h]

theorem State.selected_respond (s : State) (f : Fn) (p : Knobs) (m : Mode) :
    (s.selected f p m).respond 0 = s.selected f p m := by
  refine State.respond_eq_self ?_
  rw [State.selected, State.configure_rsp, initFn_rsp]

/-- An in-scope function that SETFN has just selected is, after a Configure with new knobs and mode, as if SETFN had
found these (R303). -/
theorem configure_selected {f : Fn} (hf : ∀ k, f ≠ .ext k) (s : State) (p p' : Knobs) (m m' : Mode) :
    ({ s.selected f p m with p := p', mode := m' } : State).configure = s.selected f p' m' := by
  cases f with
  | ext k => exact absurd rfl (hf k)
  | rizm => rfl
  | pal v => rfl
  | bm v =>
    exact congrArg (fun b => ({ s.selected (.bm v) p' m' with bm := b } : State))
      (bmConfigure_bmConfigure_reset v _ _ s.params)

theorem selected_selectable {f : Fn} (hf : ∀ k, f ≠ .ext k) (s : State) (p : Knobs) (m : Mode) :
    (s.selected f p m).selectable (s.selected f p m).func = true := by
  rw [State.selected_func]
  exact selectable_of_present fun k hk => absurd hk (hf k)

theorem exec_setmode_selected {f : Fn} (hf : ∀ k, f ≠ .ext k) (s : State) (p : Knobs) (m m' : Mode) :
    exec (.setmode m') (s.selected f p m) = .next (s.selected f p m') := by
  have hconf := configure_selected hf s p (s.selected f p m).p m m'
  have hexec : exec (.setmode m') (s.selected f p m) =
      .next (({ s.selected f p m with mode := m' } : State).configure.respond 0) :=
    dispatched_of_selectable _ _ (selected_selectable hf s p m)
  rw [hexec, hconf, State.selected_p, State.selected_respond]

theorem exec_cpypar_selected {f : Fn} (hf : ∀ k, f ≠ .ext k) (s : State) (p : Knobs) (m : Mode) (a b c d : Half16) :
    exec (.cpypar [a, b, c, d]) (s.selected f p m) = .next (s.selected f #v[a, b, c, d] m) := by
  have hconf := configure_selected hf s p #v[a, b, c, d] m (s.selected f p m).mode
  have hexec : exec (.cpypar [a, b, c, d]) (s.selected f p m) =
      .next (({ s.selected f p m with p := #v[a, b, c, d] } : State).configure.respond 0) :=
    exec_cpypar_of_selectable (selected_selectable hf s p m) [a, b, c, d]
  rw [hexec, hconf, State.selected_mode, State.selected_respond]

/-! The state in which SETFN is issued, by what all functions share. -/

/-- A command that configures `u` and completes changes nothing shared but the response (R236). -/
theorem dispatched_configure_shared {s u : State} (hs : s.selectable s.func = true) (hu : u.selectable u.func = true) :
    ∃ t, s.dispatched (u.configure.respond 0) = .next t ∧ t.selectable t.func = true ∧
      t.shared = { u.shared with rsp := some ⟨0, false⟩ } := by
  obtain ⟨t, hnext, ht⟩ := goesOn_dispatched_configure hs hu
  obtain ⟨-, rfl⟩ := (dispatched_next _ _ _).mp hnext
  exact ⟨_, hnext, ht,
    congrArg (fun v : State => { v with rsp := some ⟨0, false⟩ }) (configureFn_shared u.func u)⟩

/-- SETMODE and CPYPAR of a whole vector write the mode and the knobs, and nothing else that is shared but the
response (R240, R244). -/
theorem exec_setmode_cpypar_shared {s : State} (hsel : s.selectable s.func = true) (m : Mode) (a b c d : Half16) :
    ∃ s1 s2, exec (.setmode m) s = .next s1 ∧ exec (.cpypar [a, b, c, d]) s1 = .next s2 ∧
      s2.shared = { s.shared with p := #v[a, b, c, d], mode := m, rsp := some ⟨0, false⟩ } := by
  obtain ⟨s1, hsetmode, hsel1, hshared1⟩ := dispatched_configure_shared (u := { s with mode := m }) hsel hsel
  obtain ⟨s2, hcpypar, -, hshared2⟩ :=
    dispatched_configure_shared (u := { s1 with p := #v[a, b, c, d] }) hsel1 hsel1
  exact ⟨s1, s2, hsetmode, hcpypar, hshared2.trans
    (congrArg (fun v : State => { v with p := #v[a, b, c, d], rsp := some ⟨0, false⟩ }) hshared1)⟩

/-- A SETFN reads nothing of the state it finds but what is shared, and leaves nothing else of it that a command can
tell (R21, R238). -/
theorem selected_agree {s t : State} {p : Knobs} {m : Mode}
    (h : t.shared = { s.shared with p := p, mode := m, rsp := some ⟨0, false⟩ }) (f : Fn) :
    (t.selected f t.p t.mode).Agree (s.selected f p m) :=
  agree_configure_initFn rfl
    (congrArg (fun u : State => { u with func := f, inq := [], outq := [], rsp := some ⟨0, false⟩ }) h)

/-- Settles O28: a SETFN that comes last finds the new mode and knobs, and nothing else of what it reads has changed;
after a SETFN that comes first, each Configure leaves the state of a SETFN that found the new values. -/
theorem bootOrderIsIrrelevant : Obligations.BootOrderIsIrrelevant := by
  intro s f m a b c d hsel hf
  have hscope (u : State) : u.selectable f = true := selectable_of_present fun k hk => absurd hk (hf k)
  obtain ⟨s1, s2, hsetmode, hcpypar, hshared⟩ := exec_setmode_cpypar_shared hsel m a b c d
  exact ⟨s1, s2, _, _, _, _, hsetmode, hcpypar, exec_setfn_eq_selected (hscope s2), exec_setfn_eq_selected (hscope s),
    exec_setmode_selected hf s s.p s.mode m, exec_cpypar_selected hf s s.p m a b c d, selected_agree hshared f⟩

end Sys2Proof.Machine
